-- ==== Sys2Proof/Word.lean ====
section
/-! DEFINITION. The word type of the block: bytes (rule R7 of spec/00_scope.md). A reading of the millisecond clock and
every stamp made from one (rule R27 of spec/10_state.md) is a natural number, kept below `2 ^ TIME_W` where it is stored
(log 5). -/

namespace Sys2Proof

/-- A byte: 8 bits, unsigned (R7). -/
abbrev Byte := BitVec 8

end Sys2Proof
end

