-- ==== Sys2Proof/Syntax.lean ====
section
/-! DEFINITION. The enumerations of spec/30_encoding.md, the queue entry of spec/10_state.md R22, and `Instr`: one
constructor for every row of spec/opcode_table.json, in the table's order. -/

namespace Sys2Proof

/-- The parser states (10_state R12), in the order of 30_encoding R75. Codes 5 to 7 are never produced, so the type
leaves them out (93_implementation_defined U4, log 32). -/
inductive PState where
  | ready | syncSeen | lenSeen | cmdSeen | awaitingPayload
deriving DecidableEq, Repr, Inhabited

/-- The report types (10_state R22), in the order of 30_encoding R76. -/
inductive ReportType where
  | keyboard | mouse | extra | nkro
deriving DecidableEq, Repr, Inhabited

/-- The modes (30_encoding R64): USB (no profile), three BLE profiles, the 2.4 GHz dongle. -/
inductive Mode where
  | usb | ble1 | ble2 | ble3 | dongle
deriving DecidableEq, Repr, Inhabited

/-- One queue entry (10_state R22): its type and the meaningful bytes of its payload; the rule's `len` is the number
of those bytes. -/
structure Entry where
  type : ReportType
  data : List Byte
deriving DecidableEq, Repr, Inhabited

/-- The rule's `len` of an entry (R22). -/
abbrev Entry.len (e : Entry) : Nat := e.data.length

/-- The rows of spec/opcode_table.json. Operands: `b` a received byte; `c`, `w`, `d` the CMD, WORKMODE and DATA bytes
of a frame; `m` a mode argument (8 bits, 30_encoding R77); `t` a clock reading; `payload` the bytes of a report or of
a frame, whose number is the row's `len`. -/
inductive Instr where
  -- byte classes of the parser (30_encoding R73); the two SYNC rows fix the byte
  | rxbReadySync
  | rxbReadyNoise (b : Byte)
  | rxbSyncSync
  | rxbSyncLenBad (b : Byte)
  | rxbSyncLenOk (b : Byte)
  | rxbLenCmdBad (b : Byte)
  | rxbLenCmdOk (b : Byte)
  | rxbCmdWmBad (b : Byte)
  | rxbCmdWmOk (b : Byte)
  | rxbPayOvf (b : Byte)
  | rxbPayData (b : Byte)
  -- completed frames (30_encoding R63)
  | frmStatusConn (w d : Byte)
  | frmStatusLed (w d : Byte)
  | frmStatusOther (c w d : Byte)
  | frmStatusStale (c w d : Byte)
  | frmGeneric (c w : Byte) (payload : List Byte)
  -- outgoing frames (30_encoding R67 to R72)
  | encKbd (payload : List Byte)
  | encMouse (payload : List Byte)
  | encExtra (payload : List Byte)
  | encNkro (payload : List Byte)
  | encStart (m : Byte)
  | encPair (m : Byte)
  | encStop
  | wakeBurst (t : Nat)
  -- operations (30_encoding R77)
  | rxbyte (b : Byte)
  | push (ty : ReportType) (payload : List Byte)
  | pop
  | qclear
  | qdepth
  | sched (t : Nat)
  | tick (t : Nat) (bytes : List Byte)
  | pairtmo (t : Nat)
  | start (m : Byte) (t : Nat)
  | pair (m : Byte) (t : Nat)
  | stop (t : Nat)
  | isconn
  | submitKbd (payload : List Byte)
  | submitMouse (payload : List Byte)
  | submitExtra (payload : List Byte)
  | submitNkro (payload : List Byte)
  | ledq
  | reservedE
  | reservedF
deriving DecidableEq, Repr

/-- The four formats of the opcode table (30_encoding R80). -/
inductive Format where
  | rxbyte | rxframe | txframe | op
deriving DecidableEq, Repr

/-- The format of each row, as the table's `format` column gives it. -/
def Instr.format : Instr → Format
  | .rxbReadySync | .rxbReadyNoise _ | .rxbSyncSync | .rxbSyncLenBad _ | .rxbSyncLenOk _ | .rxbLenCmdBad _
  | .rxbLenCmdOk _ | .rxbCmdWmBad _ | .rxbCmdWmOk _ | .rxbPayOvf _ | .rxbPayData _ => .rxbyte
  | .frmStatusConn _ _ | .frmStatusLed _ _ | .frmStatusOther _ _ _ | .frmStatusStale _ _ _
  | .frmGeneric _ _ _ => .rxframe
  | .encKbd _ | .encMouse _ | .encExtra _ | .encNkro _ | .encStart _ | .encPair _ | .encStop
  | .wakeBurst _ => .txframe
  | .rxbyte _ | .push _ _ | .pop | .qclear | .qdepth | .sched _ | .tick _ _ | .pairtmo _ | .start _ _ | .pair _ _
  | .stop _ | .isconn | .submitKbd _ | .submitMouse _ | .submitExtra _ | .submitNkro _ | .ledq | .reservedE
  | .reservedF => .op

/-- The argument lines of the command port beside its command word (30_encoding R77, column "arguments"): the byte
`b`, the mode `m`, the length `len`, the clock reading `t` and the byte sequence (`payload`, or the `bytes` of TICK).
An operation looks at the lines its row names and at no other (log 13). -/
structure Args where
  b    : Byte := 0
  m    : Byte := 0
  len  : Byte := 0
  t    : Nat := 0
  data : List Byte := []
deriving DecidableEq, Repr

/-- What the machine can be given to run, as it is encoded (30_encoding R80 has four formats): a command word with its
argument lines; one byte on the receive line; a completed incoming frame; and a request to one of the encoder
procedures, with the bytes it is to produce. The hardware's surroundings give it the first two; the last two stand for
the block's own internal calls, and a step can be given them as well (log 12). -/
inductive Fetch where
  | command (word : Byte) (args : Args)
  | lineByte (b : Byte)
  | rxFrame (f : List Byte)
  | txReport (ty : ReportType) (f : List Byte)
  | txCommand (f : List Byte)
  | txBurst (t : Nat) (f : List Byte)
deriving DecidableEq, Repr

/-- The format a presented item belongs to. -/
def Fetch.format : Fetch → Format
  | .command _ _ => .op
  | .lineByte _ => .rxbyte
  | .rxFrame _ => .rxframe
  | .txReport _ _ | .txCommand _ | .txBurst _ _ => .txframe

end Sys2Proof
end

