-- ==== Sys2Proof/Config.lean ====
section
/-! DEFINITION. The implementation parameters that spec/00_scope.md R6 leaves OPEN or keeps as named fields, the
constraints R6 puts on them, R6's defaults, and the free values for memory that holds no architectural value. The
numbers R6 fixes are named constants beside the rules that use them (Decode.lean, Machine/Operands.lean). -/

namespace Sys2Proof

/-- The parameters of one instance (00_scope R6; 10_state R11(a): constants of an instance, not state). -/
structure Params where
  /-- `MAX_FRAME_LEN`, the greatest legal LEN -/
  maxFrameLen : Nat
  /-- `RX_BUF_CAP`, bytes in the frame buffer -/
  rxBufCap : Nat
  /-- `CMD_MAX`, a named field (60_exceptions R226) -/
  cmdMax : Nat
  /-- `WORKMODE_MAX`, a named field (60_exceptions R226) -/
  workmodeMax : Nat
  /-- `QUEUE_CAP`, entries in the report queue -/
  queueCap : Nat
  /-- `PAYLOAD_CAP`, bytes of payload one entry holds -/
  payloadCap : Nat
  /-- `WAKE_DELAY_MS`, the delay after a wake burst -/
  wakeDelayMs : Nat
  /-- `RETX_DELAY_MS`, the delay before START repeats its frame -/
  retxDelayMs : Nat
  /-- `PAIR_GAP_MS`, the delay between the two pairing frames -/
  pairGapMs : Nat
  /-- `DEVICE_NAME`, the name bytes of the start frame -/
  deviceName : List Byte
  /-- `TIME_W`, the width of the clock and of every stamp -/
  timeW : Nat
  /-- `RX_DRAIN_MAX`, the bound of the receive drain of one tick; `none` is unbounded -/
  rxDrainMax : Option Nat
deriving DecidableEq, Repr

/-- The constraints of R6's "value / constraint" column. `CMD_MAX` and `WORKMODE_MAX` are 2 and 4 on this hardware. -/
structure Params.Legal (p : Params) : Prop where
  maxFrameLen_range : 3 ≤ p.maxFrameLen ∧ p.maxFrameLen ≤ 253
  rxBufCap_min : 5 ≤ p.rxBufCap
  cmdMax_eq : p.cmdMax = 2
  workmodeMax_eq : p.workmodeMax = 4
  queueCap_min : 1 ≤ p.queueCap
  payloadCap_range : 8 ≤ p.payloadCap ∧ p.payloadCap ≤ 255
  startBlocking : p.wakeDelayMs + p.retxDelayMs ≤ 400
  pairBlocking : p.wakeDelayMs + p.pairGapMs ≤ 400
  deviceName_length : p.deviceName.length = 15
  rxDrainMax_min : ∀ n, p.rxDrainMax = some n → 1 ≤ n

/-- R6's column "default for vectors": the spec's own choice, for test vectors (log 2). -/
def Params.default : Params where
  maxFrameLen := 30
  rxBufCap := 32
  cmdMax := 2
  workmodeMax := 4
  queueCap := 32
  payloadCap := 32
  wakeDelayMs := 10
  retxDelayMs := 10
  pairGapMs := 0
  deviceName := [0x51, 0x4D, 0x4B, 0x2D, 0x57, 0x49, 0x52, 0x45, 0x4C, 0x45, 0x53, 0x53, 0x2D, 0x4B, 0x42]
  timeW := 32
  rxDrainMax := none

/-- A byte the spec gives no value: a byte of `RXBUF` at an index not below `rxidx` (93 U1, log 3), a payload byte
beyond an entry's `len` (log 38). A free value. -/
opaque Config.freeByte : Nat → Byte

/-- A slot of `QMEM` outside the live range (93 U2, log 4). A free value. -/
opaque Config.freeEntry : Nat → Entry

end Sys2Proof
end

