-- ==== Sys2Proof/Decode.lean ====
section
/-! DEFINITION. From what is presented to the machine to an `Instr`, total and rejecting by name, and back: the byte
classes of the parser (spec/30_encoding.md R73), the frame kinds (R63, and 40_parser R108 for the stale row), the
outgoing frames (R66 to R72), the operation selectors (R77, R80); then the frame builders of spec/41_encoder.md and the
encoder `encode`; then the reading of a word numbered as spec/opcode_table.json numbers it. -/

namespace Sys2Proof

/-! ## Constants and codes of 00_scope R6 and 30_encoding -/

/-- `SYNC` (R6). -/
abbrev syncByte : Byte := 0x55

/-- `MIN_FRAME_LEN` (R6). -/
abbrev minFrameLen : Nat := 2

/-- `STATUS_LEN`, the LEN of a status frame (R6). -/
abbrev statusLen : Nat := 3

/-- `KBD_PAYLOAD_LEN` (R6, 41_encoder R122). -/
abbrev kbdPayloadLen : Nat := 8

/-- `WAKE_BURST_LEN`, zero bytes in a wake burst (R6). -/
abbrev wakeBurstLen : Nat := 60

/-- Numbers of the parser states (R75). -/
def PState.code : PState → Nat
  | .ready => 0
  | .syncSeen => 1
  | .lenSeen => 2
  | .cmdSeen => 3
  | .awaitingPayload => 4

/-- Numbers of the modes (R64): the value of WORKMODE, of `active_mode` and of a mode argument. -/
def Mode.code : Mode → Byte
  | .usb => 0
  | .ble1 => 1
  | .ble2 => 2
  | .ble3 => 3
  | .dongle => 4

/-- The profile a mode argument names: `1 .. 4` (44_link_ops R177); anything else names none. -/
def profileOf (m : Byte) : Option Mode :=
  if m = 1#8 then some .ble1
  else if m = 2#8 then some .ble2
  else if m = 3#8 then some .ble3
  else if m = 4#8 then some .dongle
  else none

/-- Numbers of the report types (R76). -/
def ReportType.code : ReportType → Nat
  | .keyboard => 0
  | .mouse => 1
  | .extra => 2
  | .nkro => 3

/-- The report type of a 2-bit code (R76). -/
def ReportType.ofCode (n : Nat) : ReportType :=
  match n % 4 with
  | 0 => .keyboard
  | 1 => .mouse
  | 2 => .extra
  | _ => .nkro

/-! ## Decoding -/

/-- What decoding looks at beside the presented bytes: the parser's state (R73), the active mode (40_parser R108) and
the parameters. -/
structure DecodeCtx where
  pstate : PState
  rxidx : Nat
  activeMode : Mode
  params : Params
deriving DecidableEq, Repr

/-- Why a presented item is the encoding of no row. -/
inductive DecodeError where
  /-- a frame that does not start with `0x55`, or is shorter than its fixed bytes -/
  | notAFrame
  /-- a frame whose LEN is illegal or unreachable (R74), or does not count its bytes (R62) -/
  | badLength
  /-- a frame whose CMD is above `CMD_MAX` (R74) -/
  | badCmd
  /-- a frame whose WORKMODE is above `WORKMODE_MAX` (R74) -/
  | badWorkmode
  /-- bytes that are none of the outgoing patterns of R67 to R72 -/
  | notOutgoing
  /-- a PUSH or SUBMIT whose `len` line does not count the payload line's bytes (R77) -/
  | lenLineMismatch
deriving DecidableEq, Repr

/-- The class of a byte received in a given state: the decode table R73, its tests in the order listed. -/
def decodeLineByte (c : DecodeCtx) (b : Byte) : Instr :=
  match c.pstate with
  | .ready => if b = syncByte then .rxbReadySync else .rxbReadyNoise b
  | .syncSeen =>
    if b = syncByte then .rxbSyncSync
    else if b.toNat < minFrameLen then .rxbSyncLenBad b
    else if b.toNat > c.params.maxFrameLen then .rxbSyncLenBad b
    else if b.toNat + 2 > c.params.rxBufCap then .rxbSyncLenBad b
    else .rxbSyncLenOk b
  | .lenSeen => if b.toNat > c.params.cmdMax then .rxbLenCmdBad b else .rxbLenCmdOk b
  | .cmdSeen => if b.toNat > c.params.workmodeMax then .rxbCmdWmBad b else .rxbCmdWmOk b
  | .awaitingPayload => if c.rxidx ≥ c.params.rxBufCap then .rxbPayOvf b else .rxbPayData b

/-- A LEN an incoming frame can carry (R61, R74): `2 .. MAX_FRAME_LEN`, fitting the buffer, and never `0x55`. -/
def frameLenLegal (p : Params) (n : Nat) : Bool :=
  decide (minFrameLen ≤ n) && decide (n ≤ p.maxFrameLen) && decide (n + 2 ≤ p.rxBufCap) && decide (n ≠ syncByte.toNat)

/-- The kind of a completed frame (R63): only one with a single payload byte (LEN 3) is a status frame, and the stale
test comes before the CMD dispatch (40_parser R108). -/
def decodeFrame (c : DecodeCtx) (f : List Byte) : Except DecodeError Instr :=
  match f with
  | s :: len :: cmd :: wm :: payload =>
    if s ≠ syncByte then .error .notAFrame
    else if frameLenLegal c.params len.toNat = false then .error .badLength
    else if payload.length + 2 ≠ len.toNat then .error .badLength
    else if cmd.toNat > c.params.cmdMax then .error .badCmd
    else if wm.toNat > c.params.workmodeMax then .error .badWorkmode
    else match payload with
      | [d] =>
        if wm ≠ c.activeMode.code then .ok (.frmStatusStale cmd wm d)
        else if cmd = 0#8 then .ok (.frmStatusConn wm d)
        else if cmd = 1#8 then .ok (.frmStatusLed wm d)
        else .ok (.frmStatusOther cmd wm d)
      | _ => .ok (.frmGeneric cmd wm payload)
  | _ => .error .notAFrame

/-- The payload of a non-keyboard report frame: `1 .. PAYLOAD_CAP` bytes (41_encoder R123 to R125). -/
def rawPayloadOk (p : Params) (payload : List Byte) : Bool :=
  decide (1 ≤ payload.length) && decide (payload.length ≤ p.payloadCap)

/-- A report frame (R67, R68). The type is not on the wire, so it is part of the request (R68). -/
def decodeReportFrame (p : Params) (ty : ReportType) (f : List Byte) : Except DecodeError Instr :=
  match f with
  | s :: len :: rest =>
    if s ≠ syncByte then .error .notAFrame
    else if rest.length ≠ len.toNat then .error .badLength
    else match ty with
      | .keyboard =>
        match rest with
        | sub :: payload => if len = 9#8 ∧ sub = 1#8 then .ok (.encKbd payload) else .error .notOutgoing
        | [] => .error .notOutgoing
      | .mouse => if rawPayloadOk p rest then .ok (.encMouse rest) else .error .badLength
      | .extra => if rawPayloadOk p rest then .ok (.encExtra rest) else .error .badLength
      | .nkro => if rawPayloadOk p rest then .ok (.encNkro rest) else .error .badLength
  | _ => .error .notAFrame

/-- A command frame (R69 to R71). Its LEN and the bytes the table's mask covers tell the three apart; the mode byte is
the only operand. -/
def decodeCommandFrame (f : List Byte) : Except DecodeError Instr :=
  match f with
  | s :: len :: z :: m :: rest =>
    if s ≠ syncByte then .error .notAFrame
    else if rest.length + 2 ≠ len.toNat then .error .badLength
    else if z ≠ 0#8 then .error .notOutgoing
    else if len = 0x14#8 then .ok (.encStart m)
    else if len = 3#8 ∧ rest = [1#8] then .ok (.encPair m)
    else if len = 2#8 ∧ m = 0#8 then .ok .encStop
    else .error .notOutgoing
  | _ => .error .notAFrame

/-- The wake burst (R72). -/
def decodeBurst (p : Params) (t : Nat) (f : List Byte) : Except DecodeError Instr :=
  if f = List.replicate wakeBurstLen 0 then .ok (.wakeBurst (t % 2 ^ p.timeW)) else .error .notOutgoing

/-- An operation with a payload: the `len` line counts the payload line's bytes (R77). -/
def withPayload (a : Args) (mk : List Byte → Instr) : Except DecodeError Instr :=
  if a.data.length = a.len.toNat then .ok (mk a.data) else .error .lenLineMismatch

/-- A command word (R77, R80(d)): bits `[3:0]` select the operation; PUSH and SUBMIT take the report type from bits
`[5:4]`; the table's masks cover no other bit. The clock line is `TIME_W` bits wide. -/
def decodeCommand (p : Params) (word : Byte) (a : Args) : Except DecodeError Instr :=
  let ty := ReportType.ofCode (word.toNat / 16)
  let t := a.t % 2 ^ p.timeW
  match word.toNat % 16 with
  | 0x0 => .ok (.rxbyte a.b)
  | 0x1 => withPayload a (.push ty)
  | 0x2 => .ok .pop
  | 0x3 => .ok .qclear
  | 0x4 => .ok .qdepth
  | 0x5 => .ok (.sched t)
  | 0x6 => .ok (.tick t a.data)
  | 0x7 => .ok (.pairtmo t)
  | 0x8 => .ok (.start a.m t)
  | 0x9 => .ok (.pair a.m t)
  | 0xA => .ok (.stop t)
  | 0xB => .ok .isconn
  | 0xC =>
    match ty with
    | .keyboard => withPayload a .submitKbd
    | .mouse => withPayload a .submitMouse
    | .extra => withPayload a .submitExtra
    | .nkro => withPayload a .submitNkro
  | 0xD => .ok .ledq
  | 0xE => .ok .reservedE
  | _ => .ok .reservedF

/-- The instruction a presented item stands for, in a given context. -/
def decode (c : DecodeCtx) (f : Fetch) : Except DecodeError Instr :=
  match f with
  | .command word a => decodeCommand c.params word a
  | .lineByte b => .ok (decodeLineByte c b)
  | .rxFrame f => decodeFrame c f
  | .txReport ty f => decodeReportFrame c.params ty f
  | .txCommand f => decodeCommandFrame f
  | .txBurst t f => decodeBurst c.params t f

/-! ## The frame builders (41_encoder), and encoding -/

/-- The first `n` bytes of `data`; a byte that is not there is a free value (log 38). -/
def firstBytes (n : Nat) (data : List Byte) : List Byte :=
  (List.range n).map fun i => data.getD i (Config.freeByte i)

/-- `EncodeKbd` (R122): `[0x55, 0x09, 0x01] ++ data[0 .. 7]`. -/
def encodeKbd (data : List Byte) : List Byte :=
  [syncByte, 0x09, 0x01] ++ firstBytes kbdPayloadLen data

/-- The other report frames (R121, R123 to R125): `[0x55, len] ++ data[0 .. len-1]`. -/
def encodeRaw (data : List Byte) : List Byte :=
  [syncByte, BitVec.ofNat 8 data.length] ++ data

/-- `EncodeReport(e)` (R121). -/
def encodeReport (e : Entry) : List Byte :=
  match e.type with
  | .keyboard => encodeKbd e.data
  | _ => encodeRaw e.data

/-- `EncodeStart(m)` (R126): `[0x55, 0x14, 0x00, m] ++ DEVICE_NAME[0 .. 14] ++ [0x2D, 0x30 + m, 0x00]`. -/
def encodeStart (p : Params) (m : Byte) : List Byte :=
  [syncByte, 0x14, 0x00, m] ++ p.deviceName ++ [0x2D, 0x30 + m, 0x00]

/-- `EncodePair(m)` (R128). -/
def encodePair (m : Byte) : List Byte := [syncByte, 0x03, 0x00, m, 0x01]

/-- `EncodeStop()` (R129). -/
def encodeStop : List Byte := [syncByte, 0x02, 0x00, 0x00]

/-- The bytes of a wake burst (R72, R130). -/
def wakeBurstBytes : List Byte := List.replicate wakeBurstLen 0

/-- An incoming frame with its LEN (R61, R62): `[SYNC, LEN, CMD, WORKMODE] ++ payload`, LEN counting what follows it. -/
def incomingFrame (c w : Byte) (payload : List Byte) : List Byte :=
  [syncByte, BitVec.ofNat 8 (payload.length + 2), c, w] ++ payload

/-- The command word of an operation (R77): its selector, and the report type at bits `[5:4]` (R80(d)). -/
def commandWord (selector : Nat) (ty : ReportType := .keyboard) : Byte :=
  BitVec.ofNat 8 (selector + 16 * ty.code)

/-- The argument lines of an operation with a payload: `len` counts it (R77). -/
def payloadArgs (payload : List Byte) : Args where
  len := BitVec.ofNat 8 payload.length
  data := payload

/-- The encoding of an instruction, from the same tables. -/
def encode (p : Params) : Instr → Fetch
  | .rxbReadySync => .lineByte syncByte
  | .rxbReadyNoise b => .lineByte b
  | .rxbSyncSync => .lineByte syncByte
  | .rxbSyncLenBad b => .lineByte b
  | .rxbSyncLenOk b => .lineByte b
  | .rxbLenCmdBad b => .lineByte b
  | .rxbLenCmdOk b => .lineByte b
  | .rxbCmdWmBad b => .lineByte b
  | .rxbCmdWmOk b => .lineByte b
  | .rxbPayOvf b => .lineByte b
  | .rxbPayData b => .lineByte b
  | .frmStatusConn w d => .rxFrame [syncByte, 3, 0, w, d]
  | .frmStatusLed w d => .rxFrame [syncByte, 3, 1, w, d]
  | .frmStatusOther c w d => .rxFrame [syncByte, 3, c, w, d]
  | .frmStatusStale c w d => .rxFrame [syncByte, 3, c, w, d]
  | .frmGeneric c w payload => .rxFrame (incomingFrame c w payload)
  | .encKbd payload => .txReport .keyboard (encodeKbd payload)
  | .encMouse payload => .txReport .mouse (encodeRaw payload)
  | .encExtra payload => .txReport .extra (encodeRaw payload)
  | .encNkro payload => .txReport .nkro (encodeRaw payload)
  | .encStart m => .txCommand (encodeStart p m)
  | .encPair m => .txCommand (encodePair m)
  | .encStop => .txCommand encodeStop
  | .wakeBurst t => .txBurst t wakeBurstBytes
  | .rxbyte b => .command (commandWord 0x0) { b := b }
  | .push ty payload => .command (commandWord 0x1 ty) (payloadArgs payload)
  | .pop => .command (commandWord 0x2) {}
  | .qclear => .command (commandWord 0x3) {}
  | .qdepth => .command (commandWord 0x4) {}
  | .sched t => .command (commandWord 0x5) { t := t }
  | .tick t bytes => .command (commandWord 0x6) { t := t, data := bytes }
  | .pairtmo t => .command (commandWord 0x7) { t := t }
  | .start m t => .command (commandWord 0x8) { m := m, t := t }
  | .pair m t => .command (commandWord 0x9) { m := m, t := t }
  | .stop t => .command (commandWord 0xA) { t := t }
  | .isconn => .command (commandWord 0xB) {}
  | .submitKbd payload => .command (commandWord 0xC .keyboard) (payloadArgs payload)
  | .submitMouse payload => .command (commandWord 0xC .mouse) (payloadArgs payload)
  | .submitExtra payload => .command (commandWord 0xC .extra) (payloadArgs payload)
  | .submitNkro payload => .command (commandWord 0xC .nkro) (payloadArgs payload)
  | .ledq => .command (commandWord 0xD) {}
  | .reservedE => .command (commandWord 0xE) {}
  | .reservedF => .command (commandWord 0xF) {}

/-! ## Words numbered as the opcode table numbers them -/

/-- The `n` bytes of a word of the table, first wire byte most significant (R80(b), R80(c)). -/
def tableBytes (n w : Nat) : List Byte :=
  (List.range n).map fun i => BitVec.ofNat 8 (w / 256 ^ (n - 1 - i))

/-- The item a word of the table is presented as (log 14). The table's four formats share their numbers, so the width
and, at eight bits, the value `0x55` tell them apart: one byte is a command word, but for the sync byte, which is taken
as a byte on the receive line; three and four bytes are the fixed bytes of an outgoing frame, its operand bytes zero;
five bytes are a pairing frame where the mask of its row says so, else an incoming frame. -/
def tableItem (nbits w : Nat) : Fetch :=
  if nbits ≤ 8 then
    if w % 256 = syncByte.toNat then .lineByte syncByte else .command (BitVec.ofNat 8 w) {}
  else if nbits = 24 then
    if w = 0x550901 then .txReport .keyboard (tableBytes 3 w ++ List.replicate kbdPayloadLen 0)
    else .txCommand (tableBytes 3 w ++ List.replicate 19 0)
  else if nbits = 32 then .txCommand (tableBytes 4 w)
  else if nbits = 40 then
    if w / 2 ^ 16 = 0x550300 ∧ w % 256 = 1 then .txCommand (tableBytes 5 w) else .rxFrame (tableBytes 5 w)
  else if nbits = 480 then .txBurst 0 (tableBytes 60 w)
  else .rxFrame (tableBytes (nbits / 8) w)

/-- The decoding context right after reset (10_state R34), with the parameters at their defaults. -/
def DecodeCtx.atReset : DecodeCtx where
  pstate := .ready
  rxidx := 0
  activeMode := .usb
  params := .default

/-- The instruction the decoder reads, in the state after reset, from a word numbered as spec/opcode_table.json numbers
it. -/
def decodeTableWord (nbits w : Nat) : Option Instr :=
  match decode .atReset (tableItem nbits w) with
  | .ok i => some i
  | .error _ => none

end Sys2Proof
end

