-- ==== Sys2Proof/Machine/State.lean ====
section
/-! DEFINITION. The state of one instance of the block (spec/10_state.md R10 to R34), what it records as output, the
reasons a step can stop, and the state after reset. -/

namespace Sys2Proof.Machine

/-- The framing errors (60_exceptions R210, codes 1 to 4). -/
inductive RejectCause where
  | badLen | badCmd | badWorkmode | overflow
deriving DecidableEq, Repr

/-- The inputs that are dropped (60_exceptions R210, codes 0 and 5 to 9), each with what its event records. -/
inductive DropCause where
  | noise (b : Byte)
  | stale (frame : List Byte)
  | ignoredCmd (frame : List Byte)
  | queueFull (ty : ReportType)
  | badPushLen (ty : ReportType) (len : Nat)
  | linkDown (ty : ReportType)
deriving DecidableEq, Repr

/-- The classes of errors (60_exceptions R212). -/
inductive ErrorClass where
  | framing | capacity | staleData | linkDown
deriving DecidableEq, Repr

/-- The diagnostic events (10_state R33). A reject records the offending byte (60_exceptions R210). -/
inductive Event where
  | frameDone (frame : List Byte)
  | reject (cause : RejectCause) (b : Byte)
  | drop (cause : DropCause)
deriving DecidableEq, Repr

/-- What an operation or an encoder procedure returns (30_encoding R77, column "result"; 41_encoder R120, R130). -/
inductive Result where
  | pushed (ok : Bool)
  | popped (e : Option Entry)
  | depth (n : Nat)
  | connected (c : Bool)
  | leds (b : Byte)
  | frame (f : List Byte)
  | resumeAt (t : Nat)
deriving DecidableEq, Repr

/-- The state record. Output histories are oldest first. -/
structure State where
  /-- the parameters of the instance (00_scope R6), which no step writes (log 2) -/
  params : Params
  /-- the parser state, in the part of the program counter (R12) -/
  pstate : PState
  /-- the number of bytes of the current frame stored (R13) -/
  rxidx : Nat
  /-- `RXBUF` (R14; 20_memory R40, R41): the bytes at indices below `rxidx`, rising (log 3) -/
  rxbuf : List Host.Cell
  /-- the link's current mode (R16) -/
  activeMode : Mode
  /-- the module has reported the active profile connected (R17) -/
  connected : Bool
  /-- the LED bitmask last reported (R18) -/
  ledState : Byte
  /-- the pairing sub-flag (R19) -/
  pairing : Bool
  /-- the clock value of the PAIR that last set `pairing` (R20) -/
  pairStartTime : Nat
  /-- this block is the active report sink (R21) -/
  sinkInstalled : Bool
  /-- `QMEM` (R22; 20_memory R40, R42): the slots of the live range, indices rising (log 4) -/
  qmem : List (Nat × Entry)
  /-- the index of the oldest entry (R23) -/
  qhead : Nat
  /-- the index the next PUSH writes (R23) -/
  qtail : Nat
  /-- the number of entries held (R23) -/
  qdepth : Nat
  /-- the stamp of the last frame written (R25) -/
  lastSendTime : Nat
  /-- the stamp of the last write to the module (R26) -/
  lastActivityTime : Nat
  /-- the transmit history (R28; 20_memory R46) -/
  tx : List (Nat × Byte)
  /-- the diagnostic events emitted (R33) -/
  events : List Event
  /-- the results returned (70_reset R246(b), log 7) -/
  results : List Result
  /-- the operations the surroundings have presented and the block has not begun, oldest first (log 1) -/
  pending : List Fetch
deriving DecidableEq, Repr

/-- No operation of the block faults (60_exceptions R213): there is no reason to give. -/
inductive Fault where
deriving DecidableEq, Repr

/-- The reasons a step refuses. -/
inductive Refusal where
  /-- Raised by `exec` for an instruction that has no meaning yet. Safe: nothing can be proved of its effect. -/
  | notModelled (mnemonic : String)
  /-- Raised by `step` for a presented item that is the encoding of no row (log 37). Safe: the model stops. -/
  | undecodable (e : DecodeError)
deriving DecidableEq, Repr

/-- The state after power-on, for given parameters (10_state R34, 70_reset R240 to R242). The source states
`activeMode` and `connected`; the other values are R34's own (log 6). -/
def State.resetWith (p : Params) : State where
  params := p
  pstate := .ready
  rxidx := 0
  rxbuf := []
  activeMode := .usb
  connected := false
  ledState := 0
  pairing := false
  pairStartTime := 0
  sinkInstalled := false
  qmem := []
  qhead := 0
  qtail := 0
  qdepth := 0
  lastSendTime := 0
  lastActivityTime := 0
  tx := []
  events := []
  results := []
  pending := []

/-- The state after power-on, with R6's default parameters (log 2). -/
def State.reset : State := .resetWith .default

end Sys2Proof.Machine
end

