-- ==== Sys2Proof/Machine/Operands.lean ====
section
/-! DEFINITION. Operand forms and their arithmetic: the millisecond clock (spec/43_scheduler.md R157), the thresholds of
spec/60_exceptions.md R231, the legal lengths of a report (spec/42_queue.md R142), the decoding context of a state. -/

namespace Sys2Proof.Machine

/-- What decoding looks at, taken from a state. -/
def State.ctx (s : State) : DecodeCtx where
  pstate := s.pstate
  rxidx := s.rxidx
  activeMode := s.activeMode
  params := s.params

/-- A clock value as a register or a stamp of `TIME_W` bits holds it (10_state R20, R25 to R27; 20_memory R43, log 5). -/
def stamp (p : Params) (t : Nat) : Nat := t % 2 ^ p.timeW

/-- `elapsed(t, t0) = (t - t0) mod 2^TIME_W` (R157). -/
def elapsed (p : Params) (t t0 : Nat) : Nat := (t + (2 ^ p.timeW - t0 % 2 ^ p.timeW)) % 2 ^ p.timeW

/-- `MIN_INTERVAL_DONGLE_MS` (00_scope R6). -/
abbrev minIntervalDongleMs : Nat := 2

/-- `MIN_INTERVAL_BLE_MS` (00_scope R6). -/
abbrev minIntervalBleMs : Nat := 8

/-- `IDLE_WAKE_MS` (00_scope R6). -/
abbrev idleWakeMs : Nat := 10000

/-- `PAIR_WINDOW_MS` (00_scope R6). -/
abbrev pairWindowMs : Nat := 60000

/-- The minimum interval of the active mode (43_scheduler R158): 2 ms for the dongle, 8 ms for every other mode. -/
def minInterval (m : Mode) : Nat := if m = .dongle then minIntervalDongleMs else minIntervalBleMs

/-- A report length PUSH accepts (42_queue R142(b), log 15): `1 .. PAYLOAD_CAP`, and for a keyboard report 8. -/
def pushLenLegal (p : Params) (ty : ReportType) (n : Nat) : Bool :=
  decide (1 ≤ n) && decide (n ≤ p.payloadCap) && (decide (ty ≠ .keyboard) || decide (n = kbdPayloadLen))

/-- The rate limit holds a queued frame back at clock reading `t` (R156, R162). -/
def rateLimited (s : State) (t : Nat) : Bool :=
  decide (elapsed s.params t s.lastSendTime < minInterval s.activeMode)

/-- The line has been silent long enough for a wake burst (R156, R159): strictly more than 10000 ms. -/
def wakeDue (s : State) (t : Nat) : Bool :=
  decide (elapsed s.params t s.lastActivityTime > idleWakeMs)

/-- The pairing window has passed (44_link_ops R190): strictly more than 60000 ms (log 21). -/
def pairWindowOver (s : State) (t : Nat) : Bool :=
  decide (elapsed s.params t s.pairStartTime > pairWindowMs)

end Sys2Proof.Machine
end

