-- ==== Sys2Proof/Machine/Ops.lean ====
section
/-! DEFINITION. The named operations over memory, registers and the output streams: sparse memories in canonical form,
`RXBUF` (spec/20_memory.md R40, R41), the parser's local reset and the drop (spec/60_exceptions.md R211, R214), the
transmit stream and the timers (20_memory R46, 43_scheduler R160, 41_encoder R130), the ring buffer (spec/42_queue.md). -/

namespace Sys2Proof.Machine

/-! ## Memories -/

/-- The value at an address; `none` where nothing is listed. -/
def memRead {α : Type} (m : List (Nat × α)) (a : Nat) : Option α :=
  match m with
  | [] => none
  | (k, v) :: m => if a = k then some v else memRead m a

/-- The memory with `v` at address `a`. -/
def memWrite {α : Type} (m : List (Nat × α)) (a : Nat) (v : α) : List (Nat × α) :=
  match m with
  | [] => [(a, v)]
  | (k, w) :: m =>
    if a < k then (a, v) :: (k, w) :: m
    else if a = k then (a, v) :: m
    else (k, w) :: memWrite m a v

/-- The memory with nothing at address `a`. -/
def memErase {α : Type} (m : List (Nat × α)) (a : Nat) : List (Nat × α) :=
  m.filter fun c => decide (c.1 ≠ a)

/-- The memory with nothing at or above address `n`. -/
def memBelow {α : Type} (m : List (Nat × α)) (n : Nat) : List (Nat × α) :=
  m.filter fun c => decide (c.1 < n)

/-- The canonical form: addresses strictly rising. (An unlisted address reads as no value, so no entry can equal what
an unlisted address reads as.) -/
abbrev memWf {α : Type} (m : List (Nat × α)) : Prop := (m.map Prod.fst).Pairwise (· < ·)

/-! ## Output streams -/

/-- `emit Event` (10_state R33): events change no state and no operation reads them. -/
def emit (e : Event) (s : State) : State := { s with events := s.events ++ [e] }

/-- The result an operation returns to its caller. -/
def giveResult (r : Result) (s : State) : State := { s with results := s.results ++ [r] }

/-- `WireWrite(bytes, t)` (20_memory R46): the bytes in index order, all stamped `t`; no register changes. -/
def wireWrite (bytes : List Byte) (t : Nat) (s : State) : State :=
  { s with tx := s.tx ++ bytes.map fun b => (stamp s.params t, b) }

/-- `FrameWrite(f, tw)` (43_scheduler R160): the write, then both timers (log 26). -/
def frameWrite (f : List Byte) (tw : Nat) (s : State) : State :=
  { wireWrite f tw s with lastSendTime := stamp s.params tw, lastActivityTime := stamp s.params tw }

/-- The wire part of `WakeBurst(t)` (41_encoder R130): 60 zero bytes stamped `t`; no register changes. -/
def wakeBurst (t : Nat) (s : State) : State := wireWrite wakeBurstBytes t s

/-- The time `WakeBurst(t)` returns (41_encoder R130): `t + WAKE_DELAY_MS`. -/
def afterWake (p : Params) (t : Nat) : Nat := stamp p (t + p.wakeDelayMs)

/-! ## Rejects and drops: what stands in for exceptions -/

/-- The code of a reject (60_exceptions R210, column "code"). -/
def RejectCause.code : RejectCause → Nat
  | .badLen => 1
  | .badCmd => 2
  | .badWorkmode => 3
  | .overflow => 4

/-- The code of a drop (R210). -/
def DropCause.code : DropCause → Nat
  | .noise _ => 0
  | .stale _ => 5
  | .ignoredCmd _ => 6
  | .queueFull _ => 7
  | .badPushLen _ _ => 8
  | .linkDown _ => 9

/-- The class of a reject (R210, column "class"; R212): each is a framing error. -/
def RejectCause.errorClass : RejectCause → ErrorClass
  | .badLen | .badCmd | .badWorkmode | .overflow => .framing

/-- The class of a drop, if the table gives it one (R210, R212). -/
def DropCause.errorClass : DropCause → Option ErrorClass
  | .noise _ => some .framing
  | .stale _ => some .staleData
  | .ignoredCmd _ => none
  | .queueFull _ => some .capacity
  | .badPushLen _ _ => none
  | .linkDown _ => some .linkDown

/-- The cause code an event carries (R210); a completed frame is no error. -/
def Event.code : Event → Option Nat
  | .frameDone _ => none
  | .reject c _ => some c.code
  | .drop c => some c.code

/-- `raise Drop(cause)` (60_exceptions R211): the event and nothing else. -/
def raiseDrop (c : DropCause) (s : State) : State := emit (.drop c) s

/-- `rxidx <- n`: the bytes at indices not below `n` have no architectural value from then on (10_state R14). -/
def setRxidx (n : Nat) (s : State) : State := { s with rxidx := n, rxbuf := memBelow s.rxbuf n }

/-- `pstate <- st`. -/
def setPState (st : PState) (s : State) : State := { s with pstate := st }

/-- The parser back in `Ready` with nothing stored: what a reject and a completed frame end with (40_parser R105,
60_exceptions R214). -/
def parserToReady (s : State) : State := setPState .ready (setRxidx 0 s)

/-- `raise Reject(cause)` (60_exceptions R214): the local reset. It saves nothing, returns nowhere and touches nothing
outside the parser; the next byte is handled in `Ready` like any other (R215). -/
def raiseReject (c : RejectCause) (b : Byte) (s : State) : State :=
  parserToReady (emit (.reject c b) s)

/-! ## RXBUF -/

/-- The byte of `RXBUF` at index `i`; one that is not listed has no architectural value (93 U1, log 3). -/
def rxAt (s : State) (i : Nat) : Byte := (memRead s.rxbuf i).getD (Config.freeByte i)

/-- `MemRead(RXBUF, 0, n)`. -/
def rxBytes (s : State) (n : Nat) : List Byte := (List.range n).map (rxAt s)

/-- `MemWrite(RXBUF, i, 1, b); rxidx <- i + 1`. -/
def rxStore (i : Nat) (b : Byte) (s : State) : State :=
  setRxidx (i + 1) { s with rxbuf := memWrite s.rxbuf i b }

/-! ## The ring buffer -/

/-- The slot of `QMEM` at index `i`; one that is not listed has no architectural value (93 U2, log 4). -/
def slotAt (s : State) (i : Nat) : Entry := (memRead s.qmem i).getD (Config.freeEntry i)

/-- The live entries, oldest first (10_state R24). -/
def liveEntries (s : State) : List Entry :=
  (List.range s.qdepth).map fun i => slotAt s ((s.qhead + i) % s.params.queueCap)

/-- The acting arm of PUSH (42_queue R141). -/
def enqueue (e : Entry) (s : State) : State :=
  { s with
    qmem := memWrite s.qmem s.qtail e
    qtail := (s.qtail + 1) % s.params.queueCap
    qdepth := s.qdepth + 1 }

/-- The acting arm of POP (42_queue R143): the slot leaves the live range. -/
def dequeue (s : State) : State :=
  { s with
    qmem := memErase s.qmem s.qhead
    qhead := (s.qhead + 1) % s.params.queueCap
    qdepth := s.qdepth - 1 }

/-- `PUSH(type, payload, len)` (42_queue R141, R142): the flag it returns, and the state. The length test comes before
the full test (60_exceptions R217). -/
def pushReport (ty : ReportType) (payload : List Byte) (s : State) : Bool × State :=
  if pushLenLegal s.params ty payload.length = false then (false, raiseDrop (.badPushLen ty payload.length) s)
  else if s.qdepth < s.params.queueCap then (true, enqueue ⟨ty, payload⟩ s)
  else (false, raiseDrop (.queueFull ty) s)

/-- `POP()` (42_queue R143, R144): what it returns, and the state. -/
def popReport (s : State) : Option Entry × State :=
  if s.qdepth = 0 then (none, s) else (some (slotAt s s.qhead), dequeue s)

/-- `QCLEAR()` (42_queue R145). -/
def clearQueue (s : State) : State := { s with qmem := [], qhead := 0, qtail := 0, qdepth := 0 }

end Sys2Proof.Machine
end

