-- ==== Sys2Proof/Machine/Encoder.lean ====
section
/-! DEFINITION. A meaning for each outgoing-frame row (spec/41_encoder.md). The encoder functions read and write no
state: each returns a byte sequence, which the model records among the results (log 10). The wake burst alone writes to
the wire (R130). A mode argument outside `1 .. 4` names no profile, and the call is refused with no effect as START and
PAIR refuse it (log 11). -/

namespace Sys2Proof.Machine

/-- `ENC.KBD` (R122). -/
def execEncKbd (payload : List Byte) (s : State) : Host.Outcome State Fault Refusal :=
  .next (giveResult (.frame (encodeReport ⟨.keyboard, payload⟩)) s)

/-- `ENC.MOUSE` (R123). -/
def execEncMouse (payload : List Byte) (s : State) : Host.Outcome State Fault Refusal :=
  .next (giveResult (.frame (encodeReport ⟨.mouse, payload⟩)) s)

/-- `ENC.EXTRA` (R124). -/
def execEncExtra (payload : List Byte) (s : State) : Host.Outcome State Fault Refusal :=
  .next (giveResult (.frame (encodeReport ⟨.extra, payload⟩)) s)

/-- `ENC.NKRO` (R125). -/
def execEncNkro (payload : List Byte) (s : State) : Host.Outcome State Fault Refusal :=
  .next (giveResult (.frame (encodeReport ⟨.nkro, payload⟩)) s)

/-- `ENC.START` (R126). -/
def execEncStart (m : Byte) (s : State) : Host.Outcome State Fault Refusal :=
  .next (match profileOf m with
    | some _ => giveResult (.frame (encodeStart s.params m)) s
    | none => s)

/-- `ENC.PAIR` (R128). -/
def execEncPair (m : Byte) (s : State) : Host.Outcome State Fault Refusal :=
  .next (match profileOf m with
    | some _ => giveResult (.frame (encodePair m)) s
    | none => s)

/-- `ENC.STOP` (R129). -/
def execEncStop (s : State) : Host.Outcome State Fault Refusal :=
  .next (giveResult (.frame encodeStop) s)

/-- `WAKEBURST` (R130): the burst, and the time it returns. -/
def execWakeBurst (t : Nat) (s : State) : Host.Outcome State Fault Refusal :=
  .next (giveResult (.resumeAt (afterWake s.params t)) (wakeBurst t s))

end Sys2Proof.Machine
end

