-- ==== Sys2Proof/Machine/Flags.lean ====
section
/-! DEFINITION. The flags (spec/10_state.md R29): what a completed frame does to `connected`, `led_state` and `pairing`
(spec/40_parser.md R106 to R112). The block has no arithmetic condition codes. -/

namespace Sys2Proof.Machine

/-- `FRM.STATUS.CONN` (R109): connected exactly when DATA is 0; pairing ends (log 22). -/
def applyConnectivity (d : Byte) (s : State) : State := { s with connected := decide (d = 0#8), pairing := false }

/-- `FRM.STATUS.LED` (R110). -/
def applyLeds (d : Byte) (s : State) : State := { s with ledState := d }

/-- The interpretation of a status frame `f` (R107 to R111): the stale test against the mode active at this moment
(20_memory R54, log 39), then the CMD dispatch. -/
def interpretStatus (f : List Byte) (cmd wm data : Byte) (s : State) : State :=
  if wm ≠ s.activeMode.code then raiseDrop (.stale f) s
  else if cmd = 0#8 then applyConnectivity data s
  else if cmd = 1#8 then applyLeds data s
  else raiseDrop (.ignoredCmd f) s

/-- `FrameDone()` for the completed frame `f` (R106): the event, then the interpretation of a status frame; every other
frame has no further effect (R112). -/
def frameDone (f : List Byte) (s : State) : State :=
  match f with
  | [_, len, cmd, wm, data] =>
    if len.toNat = statusLen then interpretStatus f cmd wm data (emit (.frameDone f) s) else emit (.frameDone f) s
  | _ => emit (.frameDone f) s

end Sys2Proof.Machine
end

