-- ==== Sys2Proof/Machine/Frames.lean ====
section
/-! DEFINITION. A meaning for each completed-frame row (spec/30_encoding.md R63, spec/40_parser.md R106 to R112): what
`FrameDone` does with the row's frame. A status row carries its frame's WORKMODE, and the filter R108 looks at it, so a
row for a mode that is not the active one has no effect but its STALE event, and the STALE row for the active mode is
applied as its CMD says (R63, log 9). The parser itself is returned to Ready by `CheckComplete` (R105), not here. -/

namespace Sys2Proof.Machine

/-- `FRM.STATUS.CONN` (R109): the frame `55 03 00 W D`. -/
def execFrmStatusConn (w d : Byte) (s : State) : Host.Outcome State Fault Refusal :=
  .next (frameDone [syncByte, 3, 0, w, d] s)

/-- `FRM.STATUS.LED` (R110): the frame `55 03 01 W D`. -/
def execFrmStatusLed (w d : Byte) (s : State) : Host.Outcome State Fault Refusal :=
  .next (frameDone [syncByte, 3, 1, w, d] s)

/-- `FRM.STATUS.OTHER` (R111): the frame `55 03 C W D` with a CMD other than 0 and 1, accepted and ignored. -/
def execFrmStatusOther (c w d : Byte) (s : State) : Host.Outcome State Fault Refusal :=
  .next (frameDone [syncByte, 3, c, w, d] s)

/-- `FRM.STATUS.STALE` (R108): the frame `55 03 C W D`. -/
def execFrmStatusStale (c w d : Byte) (s : State) : Host.Outcome State Fault Refusal :=
  .next (frameDone [syncByte, 3, c, w, d] s)

/-- `FRM.GENERIC` (R112): a frame whose LEN is not 3. -/
def execFrmGeneric (c w : Byte) (payload : List Byte) (s : State) : Host.Outcome State Fault Refusal :=
  .next (frameDone (incomingFrame c w payload) s)

end Sys2Proof.Machine
end

