-- ==== Sys2Proof/Machine/Link.lean ====
section
/-! DEFINITION. The link lifecycle operations (spec/44_link_ops.md): START, PAIR, STOP, ISCONN. -/

namespace Sys2Proof.Machine

/-- A new session for mode `m` (R179, R184): the sink installed, the queue cleared, disconnected, the mode set. -/
def openSession (m : Mode) (s : State) : State :=
  { clearQueue s with sinkInstalled := true, connected := false, activeMode := m }

/-- The acting arm of START (R179, R180): the wake burst, the start frame, and the same frame again. -/
def startProfile (m : Mode) (t : Nat) (s : State) : State :=
  let s := { openSession m s with pairing := false }
  let f := encodeStart s.params m.code
  let t1 := afterWake s.params t
  frameWrite f (t1 + s.params.retxDelayMs) (frameWrite f t1 (wakeBurst t s))

/-- `START(m, t)`: refused for an illegal mode (R177, log 16), nothing for the active one (R178), else R179. -/
def start (m : Byte) (t : Nat) (s : State) : State :=
  match profileOf m with
  | none => s
  | some mode => if mode = s.activeMode then s else startProfile mode t s

/-- The acting arm of PAIR (R184, R185): the wake burst and the pairing frame twice; no same-mode guard (log 19). -/
def pairProfile (m : Mode) (t : Nat) (s : State) : State :=
  let s := { openSession m s with pairing := true, pairStartTime := stamp s.params t }
  let f := encodePair m.code
  let t1 := afterWake s.params t
  frameWrite f (t1 + s.params.pairGapMs) (frameWrite f t1 (wakeBurst t s))

/-- `PAIR(m, t)` (R183): refused for an illegal mode (R177), else R184. -/
def pair (m : Byte) (t : Nat) (s : State) : State :=
  match profileOf m with
  | none => s
  | some mode => pairProfile mode t s

/-- The acting arm of STOP (R188): the wake burst, the stop frame once, the sink uninstalled, the flags and the queue
cleared, the mode USB (log 18). -/
def stopLink (t : Nat) (s : State) : State :=
  let s := wakeBurst t s
  let s := { s with sinkInstalled := false }
  let s := frameWrite encodeStop (afterWake s.params t) s
  { clearQueue s with connected := false, pairing := false, activeMode := .usb }

/-- `STOP(t)`: nothing in USB mode (R187), else R188. -/
def stop (t : Nat) (s : State) : State := if s.activeMode = .usb then s else stopLink t s

/-- `START` (R177 to R181). -/
def execStart (m : Byte) (t : Nat) (s : State) : Host.Outcome State Fault Refusal := .next (start m t s)

/-- `PAIR` (R177, R183 to R185). -/
def execPair (m : Byte) (t : Nat) (s : State) : Host.Outcome State Fault Refusal := .next (pair m t s)

/-- `STOP` (R187, R188). -/
def execStop (t : Nat) (s : State) : Host.Outcome State Fault Refusal := .next (stop t s)

/-- `ISCONN` (R189): a pure read. -/
def execIsconn (s : State) : Host.Outcome State Fault Refusal := .next (giveResult (.connected s.connected) s)

end Sys2Proof.Machine
end

