-- ==== Sys2Proof/Machine/Queue.lean ====
section
/-! DEFINITION. The report queue operations (spec/42_queue.md): PUSH, POP, QCLEAR, QDEPTH. -/

namespace Sys2Proof.Machine

/-- `PUSH` (R141, R142): returns its success flag. -/
def execPush (ty : ReportType) (payload : List Byte) (s : State) : Host.Outcome State Fault Refusal :=
  .next (giveResult (.pushed (pushReport ty payload s).1) (pushReport ty payload s).2)

/-- `POP` (R143, R144): returns the oldest entry, or nothing. -/
def execPop (s : State) : Host.Outcome State Fault Refusal :=
  .next (giveResult (.popped (popReport s).1) (popReport s).2)

/-- `QCLEAR` (R145). -/
def execQclear (s : State) : Host.Outcome State Fault Refusal := .next (clearQueue s)

/-- `QDEPTH` (R147). -/
def execQdepth (s : State) : Host.Outcome State Fault Refusal := .next (giveResult (.depth s.qdepth) s)

end Sys2Proof.Machine
end

