-- ==== Sys2Proof/Machine/Rx.lean ====
section
/-! DEFINITION. The frame parser (spec/40_parser.md): the arms of RXBYTE (R92 to R105), RXBYTE itself (R90), and a
meaning for each byte-class row of the opcode table. A row names the arm for a byte in the parser state it belongs to;
where its condition does not hold, which decoding never lets happen, the byte is received as any byte is (log 9). -/

namespace Sys2Proof.Machine

/-! ## The arms -/

/-- R92: start a new frame, discarding any partial buffer. -/
def rxStart (s : State) : State := setPState .syncSeen (rxStore 0 syncByte (setRxidx 0 s))

/-- R96. -/
def rxLenOk (b : Byte) (s : State) : State := setPState .lenSeen (rxStore 1 b s)

/-- R99. -/
def rxCmdOk (b : Byte) (s : State) : State := setPState .cmdSeen (rxStore 2 b s)

/-- `CheckComplete()` (R105). The sum is of natural numbers (R116). -/
def checkComplete (s : State) : State :=
  let n := (rxAt s 1).toNat + 2
  if s.rxidx = n then parserToReady (frameDone (rxBytes s n) s) else s

/-- R102: the completion test is made here too, so that a frame with LEN 2 completes at once (log 23). -/
def rxWmOk (b : Byte) (s : State) : State := checkComplete (setPState .awaitingPayload (rxStore 3 b s))

/-- R103. -/
def rxData (b : Byte) (s : State) : State := checkComplete (rxStore s.rxidx b s)

/-! ## RXBYTE -/

/-- `RXBYTE(b)` (R90). A byte that causes a reject is not looked at again (R91, R100, log 24). -/
def rxByte (b : Byte) (s : State) : State :=
  match s.pstate with
  | .ready => if b = syncByte then rxStart s else raiseDrop (.noise b) s
  | .syncSeen =>
    if b = syncByte then s
    else if b.toNat < minFrameLen then raiseReject .badLen b s
    else if b.toNat > s.params.maxFrameLen then raiseReject .badLen b s
    else if b.toNat + 2 > s.params.rxBufCap then raiseReject .badLen b s
    else rxLenOk b s
  | .lenSeen => if b.toNat > s.params.cmdMax then raiseReject .badCmd b s else rxCmdOk b s
  | .cmdSeen => if b.toNat > s.params.workmodeMax then raiseReject .badWorkmode b s else rxWmOk b s
  | .awaitingPayload => if s.rxidx ≥ s.params.rxBufCap then raiseReject .overflow b s else rxData b s

/-- RXBYTE for each byte, in order. -/
def rxBytesIn (bytes : List Byte) (s : State) : State := bytes.foldl (fun s b => rxByte b s) s

/-! ## The rows -/

/-- A LEN byte R95 refuses. -/
def lenByteBad (p : Params) (b : Byte) : Bool :=
  decide (b.toNat < minFrameLen) || decide (b.toNat > p.maxFrameLen) || decide (b.toNat + 2 > p.rxBufCap)

/-- `RXB.READY.SYNC` (R92). -/
def execRxbReadySync (s : State) : Host.Outcome State Fault Refusal :=
  .next (if s.pstate = .ready then rxStart s else rxByte syncByte s)

/-- `RXB.READY.NOISE` (R93). -/
def execRxbReadyNoise (b : Byte) (s : State) : Host.Outcome State Fault Refusal :=
  .next (if s.pstate = .ready ∧ b ≠ syncByte then raiseDrop (.noise b) s else rxByte b s)

/-- `RXB.SYNC.SYNC` (R94): repeated sync bytes are absorbed. -/
def execRxbSyncSync (s : State) : Host.Outcome State Fault Refusal :=
  .next (if s.pstate = .syncSeen then s else rxByte syncByte s)

/-- `RXB.SYNC.LENBAD` (R95). -/
def execRxbSyncLenBad (b : Byte) (s : State) : Host.Outcome State Fault Refusal :=
  .next (if s.pstate = .syncSeen ∧ b ≠ syncByte ∧ lenByteBad s.params b = true then raiseReject .badLen b s
    else rxByte b s)

/-- `RXB.SYNC.LENOK` (R96). -/
def execRxbSyncLenOk (b : Byte) (s : State) : Host.Outcome State Fault Refusal :=
  .next (if s.pstate = .syncSeen ∧ b ≠ syncByte ∧ lenByteBad s.params b = false then rxLenOk b s else rxByte b s)

/-- `RXB.LEN.CMDBAD` (R98). -/
def execRxbLenCmdBad (b : Byte) (s : State) : Host.Outcome State Fault Refusal :=
  .next (if s.pstate = .lenSeen ∧ b.toNat > s.params.cmdMax then raiseReject .badCmd b s else rxByte b s)

/-- `RXB.LEN.CMDOK` (R99). -/
def execRxbLenCmdOk (b : Byte) (s : State) : Host.Outcome State Fault Refusal :=
  .next (if s.pstate = .lenSeen ∧ b.toNat ≤ s.params.cmdMax then rxCmdOk b s else rxByte b s)

/-- `RXB.CMD.WMBAD` (R101). -/
def execRxbCmdWmBad (b : Byte) (s : State) : Host.Outcome State Fault Refusal :=
  .next (if s.pstate = .cmdSeen ∧ b.toNat > s.params.workmodeMax then raiseReject .badWorkmode b s else rxByte b s)

/-- `RXB.CMD.WMOK` (R102). -/
def execRxbCmdWmOk (b : Byte) (s : State) : Host.Outcome State Fault Refusal :=
  .next (if s.pstate = .cmdSeen ∧ b.toNat ≤ s.params.workmodeMax then rxWmOk b s else rxByte b s)

/-- `RXB.PAY.OVF` (R104): the byte is not stored. -/
def execRxbPayOvf (b : Byte) (s : State) : Host.Outcome State Fault Refusal :=
  .next (if s.pstate = .awaitingPayload ∧ s.rxidx ≥ s.params.rxBufCap then raiseReject .overflow b s else rxByte b s)

/-- `RXB.PAY.DATA` (R103): the value of the byte is not inspected. -/
def execRxbPayData (b : Byte) (s : State) : Host.Outcome State Fault Refusal :=
  .next (if s.pstate = .awaitingPayload ∧ s.rxidx < s.params.rxBufCap then rxData b s else rxByte b s)

/-- `RXBYTE` (R90). -/
def execRxbyte (b : Byte) (s : State) : Host.Outcome State Fault Refusal := .next (rxByte b s)

end Sys2Proof.Machine
end

