-- ==== Sys2Proof/Machine/Sched.lean ====
section
/-! DEFINITION. The transmit scheduler (spec/43_scheduler.md): SCHED and TICK, and PAIRTMO (spec/44_link_ops.md R190),
which TICK runs. -/

namespace Sys2Proof.Machine

/-- The sending arm of SCHED (R159): the burst if one is due, the head entry as one frame, both timers, the pop. -/
def sendHead (t : Nat) (s : State) : State :=
  let f := encodeReport (slotAt s s.qhead)
  if wakeDue s t then (popReport (frameWrite f (afterWake s.params t) (wakeBurst t s))).2
  else (popReport (frameWrite f t s)).2

/-- `SCHED(t)` (R156): idle (R161), held back (R162), or sending (R159). -/
def sched (t : Nat) (s : State) : State :=
  if s.qdepth = 0 then s
  else if rateLimited s t then s
  else sendHead t s

/-- `PAIRTMO(t)` (44_link_ops R190). -/
def pairTimeout (t : Nat) (s : State) : State :=
  if s.pairing = true ∧ pairWindowOver s t = true then { s with pairing := false } else s

/-- `TICK(t, bytes)` (R165): the receive drain, the pairing time-out, the scheduler, in this order (log 25). -/
def tick (t : Nat) (bytes : List Byte) (s : State) : State := sched t (pairTimeout t (rxBytesIn bytes s))

/-- `SCHED` (R156). -/
def execSched (t : Nat) (s : State) : Host.Outcome State Fault Refusal := .next (sched t s)

/-- `TICK` (R165). -/
def execTick (t : Nat) (bytes : List Byte) (s : State) : Host.Outcome State Fault Refusal := .next (tick t bytes s)

/-- `PAIRTMO` (44_link_ops R190). -/
def execPairtmo (t : Nat) (s : State) : Host.Outcome State Fault Refusal := .next (pairTimeout t s)

end Sys2Proof.Machine
end

