-- ==== Sys2Proof/Machine/Sink.lean ====
section
/-! DEFINITION. The host report sink (spec/45_report_sink.md): SUBMIT.KBD, SUBMIT.MOUSE, SUBMIT.EXTRA, SUBMIT.NKRO, LEDQ;
and the two reserved selectors of spec/30_encoding.md R77. -/

namespace Sys2Proof.Machine

/-- `SUBMIT.*` (R202 to R205): a guarded PUSH whose result is discarded; `sink_installed` is not looked at (log 28). -/
def submit (ty : ReportType) (payload : List Byte) (s : State) : State :=
  if s.connected then (pushReport ty payload s).2 else raiseDrop (.linkDown ty) s

/-- `SUBMIT.KBD` (R202). -/
def execSubmitKbd (payload : List Byte) (s : State) : Host.Outcome State Fault Refusal :=
  .next (submit .keyboard payload s)

/-- `SUBMIT.MOUSE` (R203). -/
def execSubmitMouse (payload : List Byte) (s : State) : Host.Outcome State Fault Refusal :=
  .next (submit .mouse payload s)

/-- `SUBMIT.EXTRA` (R204). -/
def execSubmitExtra (payload : List Byte) (s : State) : Host.Outcome State Fault Refusal :=
  .next (submit .extra payload s)

/-- `SUBMIT.NKRO` (R205). -/
def execSubmitNkro (payload : List Byte) (s : State) : Host.Outcome State Fault Refusal :=
  .next (submit .nkro payload s)

/-- `LEDQ` (R206): a pure read. -/
def execLedq (s : State) : Host.Outcome State Fault Refusal := .next (giveResult (.leds s.ledState) s)

/-- Selector `0xE` (30_encoding R77): "refused: no state change" (log 17). -/
def execReservedE (s : State) : Host.Outcome State Fault Refusal := .next s

/-- Selector `0xF` (30_encoding R77): "refused: no state change" (log 17). -/
def execReservedF (s : State) : Host.Outcome State Fault Refusal := .next s

end Sys2Proof.Machine
end

