-- ==== Sys2Proof/Machine/Dispatch.lean ====
section
/-! DEFINITION. The dispatch: one arm per constructor of `Instr`, each a direct call of its meaning. -/

namespace Sys2Proof.Machine

def exec (i : Instr) (s : State) : Host.Outcome State Fault Refusal :=
  match i with
  | .rxbReadySync => Sys2Proof.Machine.execRxbReadySync s
  | .rxbReadyNoise b => Sys2Proof.Machine.execRxbReadyNoise b s
  | .rxbSyncSync => Sys2Proof.Machine.execRxbSyncSync s
  | .rxbSyncLenBad b => Sys2Proof.Machine.execRxbSyncLenBad b s
  | .rxbSyncLenOk b => Sys2Proof.Machine.execRxbSyncLenOk b s
  | .rxbLenCmdBad b => Sys2Proof.Machine.execRxbLenCmdBad b s
  | .rxbLenCmdOk b => Sys2Proof.Machine.execRxbLenCmdOk b s
  | .rxbCmdWmBad b => Sys2Proof.Machine.execRxbCmdWmBad b s
  | .rxbCmdWmOk b => Sys2Proof.Machine.execRxbCmdWmOk b s
  | .rxbPayOvf b => Sys2Proof.Machine.execRxbPayOvf b s
  | .rxbPayData b => Sys2Proof.Machine.execRxbPayData b s
  | .frmStatusConn w d => Sys2Proof.Machine.execFrmStatusConn w d s
  | .frmStatusLed w d => Sys2Proof.Machine.execFrmStatusLed w d s
  | .frmStatusOther c w d => Sys2Proof.Machine.execFrmStatusOther c w d s
  | .frmStatusStale c w d => Sys2Proof.Machine.execFrmStatusStale c w d s
  | .frmGeneric c w payload => Sys2Proof.Machine.execFrmGeneric c w payload s
  | .encKbd payload => Sys2Proof.Machine.execEncKbd payload s
  | .encMouse payload => Sys2Proof.Machine.execEncMouse payload s
  | .encExtra payload => Sys2Proof.Machine.execEncExtra payload s
  | .encNkro payload => Sys2Proof.Machine.execEncNkro payload s
  | .encStart m => Sys2Proof.Machine.execEncStart m s
  | .encPair m => Sys2Proof.Machine.execEncPair m s
  | .encStop => Sys2Proof.Machine.execEncStop s
  | .wakeBurst t => Sys2Proof.Machine.execWakeBurst t s
  | .rxbyte b => Sys2Proof.Machine.execRxbyte b s
  | .push ty payload => Sys2Proof.Machine.execPush ty payload s
  | .pop => Sys2Proof.Machine.execPop s
  | .qclear => Sys2Proof.Machine.execQclear s
  | .qdepth => Sys2Proof.Machine.execQdepth s
  | .sched t => Sys2Proof.Machine.execSched t s
  | .tick t bytes => Sys2Proof.Machine.execTick t bytes s
  | .pairtmo t => Sys2Proof.Machine.execPairtmo t s
  | .start m t => Sys2Proof.Machine.execStart m t s
  | .pair m t => Sys2Proof.Machine.execPair m t s
  | .stop t => Sys2Proof.Machine.execStop t s
  | .isconn => Sys2Proof.Machine.execIsconn s
  | .submitKbd payload => Sys2Proof.Machine.execSubmitKbd payload s
  | .submitMouse payload => Sys2Proof.Machine.execSubmitMouse payload s
  | .submitExtra payload => Sys2Proof.Machine.execSubmitExtra payload s
  | .submitNkro payload => Sys2Proof.Machine.execSubmitNkro payload s
  | .ledq => Sys2Proof.Machine.execLedq s
  | .reservedE => Sys2Proof.Machine.execReservedE s
  | .reservedF => Sys2Proof.Machine.execReservedF s

end Sys2Proof.Machine
end

