-- ==== Sys2Proof/Machine/Step.lean ====
section
/-! DEFINITION. One step: the oldest presented operation is taken, decoded in the present state, and run whole (spec/20_memory.md
R50: operations form a single sequence and each is atomic; log 1). -/

namespace Sys2Proof.Machine

/-- One step. With nothing presented the block waits: the state stays (70_reset R245: it never halts). -/
def step (s : State) : Host.Outcome State Fault Refusal :=
  match s.pending with
  | [] => .next s
  | f :: rest =>
    match decode s.ctx f with
    | .ok i => exec i { s with pending := rest }
    | .error e => .refused (.undecodable e)

/-- The state with the item of a table word presented first (log 14). -/
def State.withFetchWord (s : State) (nbits w : Nat) : State :=
  { s with pending := tableItem nbits w :: s.pending }

end Sys2Proof.Machine
end

