-- ==== Sys2Proof/Machine/Ownership.lean ====
section
/-! DEFINITION. Ownership in place of privilege (spec/60_exceptions.md R230): which collaborator may invoke which operation,
and which registers each owns or writes. Nothing enforces it in the block: no instruction looks at it, and Safety.lean
makes it a premise on runs. -/

namespace Sys2Proof.Machine

/-- Who invokes operations: the four principals of R230's table, and the main loop, which invokes TICK (43_scheduler R165,
70_reset R244; log 42). -/
inductive Principal where
  | frameCodec | transmitScheduler | linkController | hostReportSink | mainLoop
deriving DecidableEq, Repr

/-- The registers and streams that can be owned (10_state R12 to R26, R28). -/
inductive Reg where
  | pstate | rxidx | rxbuf | activeMode | connected | ledState | pairing | pairStartTime | sinkInstalled
  | qmem | qhead | qtail | qdepth | lastSendTime | lastActivityTime | wire
deriving DecidableEq, Repr

/-- Register `r` holds the same in both states. -/
def Reg.same (r : Reg) (s u : State) : Prop :=
  match r with
  | .pstate => u.pstate = s.pstate
  | .rxidx => u.rxidx = s.rxidx
  | .rxbuf => u.rxbuf = s.rxbuf
  | .activeMode => u.activeMode = s.activeMode
  | .connected => u.connected = s.connected
  | .ledState => u.ledState = s.ledState
  | .pairing => u.pairing = s.pairing
  | .pairStartTime => u.pairStartTime = s.pairStartTime
  | .sinkInstalled => u.sinkInstalled = s.sinkInstalled
  | .qmem => u.qmem = s.qmem
  | .qhead => u.qhead = s.qhead
  | .qtail => u.qtail = s.qtail
  | .qdepth => u.qdepth = s.qdepth
  | .lastSendTime => u.lastSendTime = s.lastSendTime
  | .lastActivityTime => u.lastActivityTime = s.lastActivityTime
  | .wire => u.tx = s.tx

/-- R230's column "may invoke", read from the operation's side. The byte-class rows are the arms of RXBYTE. Nobody invokes
the block's internal procedures or a reserved selector; QDEPTH, the spec's own read (D29), is anybody's (log 42). -/
def invokers : Instr → List Principal
  | .rxbReadySync | .rxbReadyNoise _ | .rxbSyncSync | .rxbSyncLenBad _ | .rxbSyncLenOk _ | .rxbLenCmdBad _
  | .rxbLenCmdOk _ | .rxbCmdWmBad _ | .rxbCmdWmOk _ | .rxbPayOvf _ | .rxbPayData _ | .rxbyte _ => [.frameCodec]
  | .sched _ | .pop => [.transmitScheduler]
  | .start _ _ | .pair _ _ | .stop _ | .isconn | .pairtmo _ | .qclear => [.linkController]
  | .submitKbd _ | .submitMouse _ | .submitExtra _ | .submitNkro _ | .ledq | .push _ _ => [.hostReportSink]
  | .tick _ _ => [.mainLoop]
  | .qdepth => [.frameCodec, .transmitScheduler, .linkController, .hostReportSink, .mainLoop]
  | .frmStatusConn _ _ | .frmStatusLed _ _ | .frmStatusOther _ _ _ | .frmStatusStale _ _ _ | .frmGeneric _ _ _
  | .encKbd _ | .encMouse _ | .encExtra _ | .encNkro _ | .encStart _ | .encPair _ | .encStop | .wakeBurst _
  | .reservedE | .reservedF => []

/-- Principal `q` may invoke the instruction (R230). -/
def mayInvoke (q : Principal) (i : Instr) : Bool := decide (q ∈ invokers i)

/-- R230's column "owns". -/
def Principal.owns : Principal → List Reg
  | .frameCodec => [.pstate, .rxidx, .rxbuf]
  | .transmitScheduler => [.wire, .lastSendTime, .lastActivityTime]
  | .linkController => [.activeMode, .pairing, .sinkInstalled]
  | .hostReportSink => []
  | .mainLoop => []

/-- R230's "writes ... as side effects". -/
def Principal.writes : Principal → List Reg
  | .frameCodec => [.connected, .ledState, .pairing]
  | .linkController => [.connected]
  | .transmitScheduler | .hostReportSink | .mainLoop => []

/-- What a principal's operations reach beside that: the queue, which R230 gives to nobody, through PUSH, POP and QCLEAR;
the wire and the timers, which the link controller writes through the scheduler's procedures (44_link_ops R176); the start
of the pairing window (10_state R20); and for TICK what its three parts reach (43_scheduler R165). -/
def Principal.reaches : Principal → List Reg
  | .frameCodec => []
  | .transmitScheduler => [.qmem, .qhead, .qdepth]
  | .linkController => [.pairStartTime, .qmem, .qhead, .qtail, .qdepth, .wire, .lastSendTime, .lastActivityTime]
  | .hostReportSink => [.qmem, .qtail, .qdepth]
  | .mainLoop =>
    [.pstate, .rxidx, .rxbuf, .connected, .ledState, .pairing, .wire, .lastSendTime, .lastActivityTime, .qmem, .qhead,
      .qdepth]

/-- Every register a principal's operations may change. -/
def Principal.mayChange (q : Principal) : List Reg := q.owns ++ q.writes ++ q.reaches

end Sys2Proof.Machine
end

