-- ==== Sys2Proof/Machine/Timing.lean ====
section
/-! DEFINITION. What each instruction says of time: the clock reading it is given, and the delays it spends, its blocking
time `d` (spec/43_scheduler.md R163, spec/44_link_ops.md R179, R184, R188, spec/70_reset_and_hazards.md R250). -/

namespace Sys2Proof.Machine

/-- The clock reading an instruction is given, if it is given one (30_encoding R77; 41_encoder R130). -/
def clockOf : Instr → Option Nat
  | .wakeBurst t | .sched t | .tick t _ | .pairtmo t | .start _ t | .pair _ t | .stop t => some t
  | .rxbReadySync | .rxbReadyNoise _ | .rxbSyncSync | .rxbSyncLenBad _ | .rxbSyncLenOk _ | .rxbLenCmdBad _
  | .rxbLenCmdOk _ | .rxbCmdWmBad _ | .rxbCmdWmOk _ | .rxbPayOvf _ | .rxbPayData _ | .frmStatusConn _ _
  | .frmStatusLed _ _ | .frmStatusOther _ _ _ | .frmStatusStale _ _ _ | .frmGeneric _ _ _ | .encKbd _ | .encMouse _
  | .encExtra _ | .encNkro _ | .encStart _ | .encPair _ | .encStop | .rxbyte _ | .push _ _ | .pop | .qclear | .qdepth
  | .isconn | .submitKbd _ | .submitMouse _ | .submitExtra _ | .submitNkro _ | .ledq | .reservedE | .reservedF => none

/-- The blocking time of a SCHED (R163): the wake delay when it injects a burst, else nothing. -/
def schedBusy (t : Nat) (s : State) : Nat :=
  if s.qdepth ≠ 0 ∧ rateLimited s t = false ∧ wakeDue s t = true then s.params.wakeDelayMs else 0

/-- The blocking time of a START (44_link_ops R177 to R179). -/
def startBusy (m : Byte) (s : State) : Nat :=
  match profileOf m with
  | none => 0
  | some mode => if mode = s.activeMode then 0 else s.params.wakeDelayMs + s.params.retxDelayMs

/-- The blocking time of a PAIR (44_link_ops R177, R184). -/
def pairBusy (m : Byte) (s : State) : Nat :=
  match profileOf m with
  | none => 0
  | some _ => s.params.wakeDelayMs + s.params.pairGapMs

/-- The milliseconds an instruction blocks for, begun in a given state (R163). -/
def busyTime (i : Instr) (s : State) : Nat :=
  match i with
  | .wakeBurst _ => s.params.wakeDelayMs
  | .sched t => schedBusy t s
  | .tick t bytes => schedBusy t (pairTimeout t (rxBytesIn bytes s))
  | .start m _ => startBusy m s
  | .pair m _ => pairBusy m s
  | .stop _ => if s.activeMode = .usb then 0 else s.params.wakeDelayMs
  | .rxbReadySync | .rxbReadyNoise _ | .rxbSyncSync | .rxbSyncLenBad _ | .rxbSyncLenOk _ | .rxbLenCmdBad _
  | .rxbLenCmdOk _ | .rxbCmdWmBad _ | .rxbCmdWmOk _ | .rxbPayOvf _ | .rxbPayData _ | .frmStatusConn _ _
  | .frmStatusLed _ _ | .frmStatusOther _ _ _ | .frmStatusStale _ _ _ | .frmGeneric _ _ _ | .encKbd _ | .encMouse _
  | .encExtra _ | .encNkro _ | .encStart _ | .encPair _ | .encStop | .rxbyte _ | .push _ _ | .pop | .qclear | .qdepth
  | .pairtmo _ | .isconn | .submitKbd _ | .submitMouse _ | .submitExtra _ | .submitNkro _ | .ledq | .reservedE
  | .reservedF => 0

end Sys2Proof.Machine
end

