-- ==== Sys2Proof/WellFormed.lean ====
section
/-! DEFINITION. Well-formed instructions: operands within the widths and the row conditions of spec/30_encoding.md (R61
to R73, R77) and spec/41_encoder.md. What depends on the state as well (the parser state a byte class belongs to, the
active mode a frame kind is told by) is `Instr.selectedIn`. -/

namespace Sys2Proof

/-- A byte a LEN test accepts (40_parser R96). -/
def lenByteOk (p : Params) (b : Byte) : Bool :=
  decide (b ≠ syncByte) && frameLenLegal p b.toNat

/-- A clock reading of `TIME_W` bits (10_state R27). -/
def timeOk (p : Params) (t : Nat) : Bool := decide (t < 2 ^ p.timeW)

/-- A payload whose length the 8-bit `len` line can count (30_encoding R77). -/
def payloadCounted (payload : List Byte) : Bool := decide (payload.length ≤ 255)

/-- Operands as the row allows them. -/
def Instr.wf (p : Params) : Instr → Bool
  | .rxbReadySync => true
  | .rxbReadyNoise b => decide (b ≠ syncByte)
  | .rxbSyncSync => true
  | .rxbSyncLenBad b => decide (b ≠ syncByte) && !lenByteOk p b
  | .rxbSyncLenOk b => lenByteOk p b
  | .rxbLenCmdBad b => decide (b.toNat > p.cmdMax)
  | .rxbLenCmdOk b => decide (b.toNat ≤ p.cmdMax)
  | .rxbCmdWmBad b => decide (b.toNat > p.workmodeMax)
  | .rxbCmdWmOk b => decide (b.toNat ≤ p.workmodeMax)
  | .rxbPayOvf _ => true
  | .rxbPayData _ => true
  | .frmStatusConn w _ => decide (w.toNat ≤ p.workmodeMax)
  | .frmStatusLed w _ => decide (w.toNat ≤ p.workmodeMax)
  | .frmStatusOther c w _ => decide (2 ≤ c.toNat) && decide (c.toNat ≤ p.cmdMax) && decide (w.toNat ≤ p.workmodeMax)
  | .frmStatusStale c w _ => decide (c.toNat ≤ p.cmdMax) && decide (w.toNat ≤ p.workmodeMax)
  | .frmGeneric c w payload =>
    decide (payload.length ≠ 1) && frameLenLegal p (payload.length + 2) && decide (c.toNat ≤ p.cmdMax) &&
      decide (w.toNat ≤ p.workmodeMax)
  | .encKbd payload => decide (payload.length = kbdPayloadLen)
  | .encMouse payload => rawPayloadOk p payload
  | .encExtra payload => rawPayloadOk p payload
  | .encNkro payload => rawPayloadOk p payload
  | .encStart m => (profileOf m).isSome
  | .encPair m => (profileOf m).isSome
  | .encStop => true
  | .wakeBurst t => timeOk p t
  | .rxbyte _ => true
  | .push _ payload => payloadCounted payload
  | .pop => true
  | .qclear => true
  | .qdepth => true
  | .sched t => timeOk p t
  | .tick t bytes => timeOk p t && decide (∀ n ∈ p.rxDrainMax, bytes.length ≤ n)
  | .pairtmo t => timeOk p t
  | .start _ t => timeOk p t
  | .pair _ t => timeOk p t
  | .stop t => timeOk p t
  | .isconn => true
  | .submitKbd payload => payloadCounted payload
  | .submitMouse payload => payloadCounted payload
  | .submitExtra payload => payloadCounted payload
  | .submitNkro payload => payloadCounted payload
  | .ledq => true
  | .reservedE => true
  | .reservedF => true

/-- The state part of a row's condition: the parser state and index a byte class belongs to (R73), and whether
WORKMODE is the active mode (40_parser R108). -/
def Instr.selectedIn (c : DecodeCtx) : Instr → Bool
  | .rxbReadySync | .rxbReadyNoise _ => decide (c.pstate = .ready)
  | .rxbSyncSync | .rxbSyncLenBad _ | .rxbSyncLenOk _ => decide (c.pstate = .syncSeen)
  | .rxbLenCmdBad _ | .rxbLenCmdOk _ => decide (c.pstate = .lenSeen)
  | .rxbCmdWmBad _ | .rxbCmdWmOk _ => decide (c.pstate = .cmdSeen)
  | .rxbPayOvf _ => decide (c.pstate = .awaitingPayload) && decide (c.rxidx ≥ c.params.rxBufCap)
  | .rxbPayData _ => decide (c.pstate = .awaitingPayload) && decide (c.rxidx < c.params.rxBufCap)
  | .frmStatusConn w _ | .frmStatusLed w _ | .frmStatusOther _ w _ => decide (w = c.activeMode.code)
  | .frmStatusStale _ w _ => decide (w ≠ c.activeMode.code)
  | .frmGeneric _ _ _ | .encKbd _ | .encMouse _ | .encExtra _ | .encNkro _ | .encStart _ | .encPair _ | .encStop
  | .wakeBurst _ | .rxbyte _ | .push _ _ | .pop | .qclear | .qdepth | .sched _ | .tick _ _ | .pairtmo _ | .start _ _
  | .pair _ _ | .stop _ | .isconn | .submitKbd _ | .submitMouse _ | .submitExtra _ | .submitNkro _ | .ledq
  | .reservedE | .reservedF => true

end Sys2Proof
end

