-- ==== Sys2Proof/Safety.lean ====
section
/-! DEFINITION. What holds of every state a run reaches, and what a run is: the invariants of spec/10_state.md R15, R24
and R26 and of the link registers; a sequence of instructions run one after another; and the duties of the surroundings
(spec/70_reset_and_hazards.md R243 to R247 and R257, spec/60_exceptions.md R230), which are premises and not checks (log 27). -/

namespace Sys2Proof.Safety

open Sys2Proof.Machine

/-! ## Invariants -/

/-- SYNC and a legal LEN are stored (10_state R15, the SyncSeen and LenSeen facts). -/
def LenStored (s : State) : Prop := rxAt s 0 = syncByte ∧ frameLenLegal s.params (rxAt s 1).toNat = true

/-- A legal CMD is stored as well (R15, the CmdSeen facts). -/
def CmdStored (s : State) : Prop := LenStored s ∧ (rxAt s 2).toNat ≤ s.params.cmdMax

/-- What each parser state says of the buffer (R15). -/
def ParserPhase (s : State) : Prop :=
  match s.pstate with
  | .ready => s.rxidx = 0
  | .syncSeen => s.rxidx = 1 ∧ rxAt s 0 = syncByte
  | .lenSeen => s.rxidx = 2 ∧ LenStored s
  | .cmdSeen => s.rxidx = 3 ∧ CmdStored s
  | .awaitingPayload =>
    4 ≤ s.rxidx ∧ s.rxidx < (rxAt s 1).toNat + 2 ∧ CmdStored s ∧ (rxAt s 3).toNat ≤ s.params.workmodeMax

/-- The parser invariant (R15): the buffer holds exactly the bytes below `rxidx` (R14), which never exceeds its
capacity, and each state's facts. -/
structure ParserInv (s : State) : Prop where
  listed : s.rxbuf.map Prod.fst = List.range s.rxidx
  bounded : s.rxidx ≤ s.params.rxBufCap
  phase : ParserPhase s

/-- Index `a` is in the live range of the ring (10_state R24). -/
def Live (s : State) (a : Nat) : Prop := ∃ i, i < s.qdepth ∧ a = (s.qhead + i) % s.params.queueCap

/-- The queue invariant (R24): the depth and indices in range and agreeing, exactly the live slots listed, in canonical
form, each of a length PUSH accepts (42_queue R142). -/
structure QueueInv (s : State) : Prop where
  depth_le : s.qdepth ≤ s.params.queueCap
  head_lt : s.qhead < s.params.queueCap
  tail_eq : s.qtail = (s.qhead + s.qdepth) % s.params.queueCap
  canonical : memWf s.qmem
  listed : ∀ a, (memRead s.qmem a).isSome = true ↔ Live s a
  legal : ∀ c ∈ s.qmem, pushLenLegal s.params c.2.type c.2.data.length = true

/-- The timers (10_state R25, R26): both hold the same value, and every stamp fits `TIME_W` bits. -/
structure TimerInv (s : State) : Prop where
  same : s.lastSendTime = s.lastActivityTime
  send_lt : s.lastSendTime < 2 ^ s.params.timeW
  pair_lt : s.pairStartTime < 2 ^ s.params.timeW
  tx_lt : ∀ c ∈ s.tx, c.1 < 2 ^ s.params.timeW

/-- The link registers (44_link_ops R193): the sink is installed exactly outside USB mode, and pairing is a sub-flag of a
wireless mode (R175). -/
structure LinkInv (s : State) : Prop where
  sink : s.sinkInstalled = true ↔ s.activeMode ≠ .usb
  pairing_wireless : s.pairing = true → s.activeMode ≠ .usb

/-- The invariant of the machine. -/
structure Inv (s : State) : Prop where
  params : s.params.Legal
  parser : ParserInv s
  queue : QueueInv s
  timers : TimerInv s
  link : LinkInv s

/-! ## Runs -/

/-- Instructions run one after another (70_reset R245), stopping at the first that gives no next state. -/
def execAll (is : List Instr) (s : State) : Host.Outcome State Fault Refusal :=
  match is with
  | [] => .next s
  | i :: is =>
    match exec i s with
    | .next u => execAll is u
    | .fault r => .fault r
    | .refused r => .refused r

/-- The block is quiescent (R245): no frame partly received and no entry unsent. -/
def Quiescent (s : State) : Prop := s.pstate = .ready ∧ s.qdepth = 0

/-! ## Runs the surroundings may make -/

/-- An operation with who invokes it and the true time, a count of milliseconds that never wraps. -/
structure Invocation where
  caller : Principal
  op : Instr
  now : Nat
deriving DecidableEq, Repr

/-- The true times behind a state's stamps, and the end of the last operation's busy interval. The block holds none of
them: they let the duties of the clock be said (log 43). -/
structure Clock where
  free : Nat
  lastFrame : Nat
  pairStart : Nat
deriving DecidableEq, Repr

/-- True time counts from the stamps' reset values (log 43). -/
def Clock.atReset : Clock := ⟨0, 0, 0⟩

/-- The times after invocation `v` has taken state `s` to `u`: its busy interval (43_scheduler R163), the last frame's
write if it wrote (R160), the start of the pairing window if it opened one (44_link_ops R185). -/
def Clock.after (k : Clock) (v : Invocation) (s u : State) : Clock where
  free := v.now + busyTime v.op s
  lastFrame := if u.tx = s.tx then k.lastFrame else v.now + busyTime v.op s
  pairStart :=
    match v.op with
    | .pair m _ => if (profileOf m).isSome then v.now else k.pairStart
    | _ => k.pairStart

/-- A report the input subsystem submits (70_reset R247): only while the sink is installed (45_report_sink R201), with a
length legal by 42_queue R142. -/
def SubmitDuty (ty : ReportType) (payload : List Byte) (s : State) : Prop :=
  s.sinkInstalled = true ∧ pushLenLegal s.params ty payload.length = true

/-- What the surroundings owe an operation beside the clock (60_exceptions R230; 70_reset R244, R247): its caller may invoke
it, its operands have their widths, a mode is `1 .. 4`, a report is as `SubmitDuty` asks. A PUSH comes through a SUBMIT
(R230), so only where one would push. -/
def DutyMet (v : Invocation) (s : State) : Prop :=
  mayInvoke v.caller v.op = true ∧ v.op.wf s.params = true ∧ v.op.selectedIn s.ctx = true ∧
  match v.op with
  | .start m _ | .pair m _ => (profileOf m).isSome = true
  | .submitKbd payload => SubmitDuty .keyboard payload s
  | .submitMouse payload => SubmitDuty .mouse payload s
  | .submitExtra payload => SubmitDuty .extra payload s
  | .submitNkro payload => SubmitDuty .nkro payload s
  | .push ty payload => SubmitDuty ty payload s ∧ s.connected = true
  | _ => True

/-- The operation compares the clock with the timers (60_exceptions R231): a scheduler with an entry queued. -/
def comparesTimers (i : Instr) (s : State) : Prop :=
  match i with
  | .sched _ | .tick _ _ => s.qdepth ≠ 0
  | _ => False

/-- The operation compares the clock with the start of the pairing window (R231): in a TICK, after its receive drain. -/
def comparesWindow (i : Instr) (s : State) : Prop :=
  match i with
  | .pairtmo _ => s.pairing = true
  | .tick _ bytes => (rxBytesIn bytes s).pairing = true
  | _ => False

/-- The clock's duties (10_state R27; 70_reset R244, R247): no operation begins before the last one's busy interval has
ended, so that the clock never runs backwards; a reading is the true time in `TIME_W` bits; and by the wrap bound R257 no
more than `2^TIME_W - 1` ms lie between a stamp and its comparison. -/
structure ClockMet (k : Clock) (v : Invocation) (s : State) : Prop where
  notBusy : k.free ≤ v.now
  reading : ∀ t, clockOf v.op = some t → t = stamp s.params v.now
  timersBound : comparesTimers v.op s → v.now - k.lastFrame ≤ 2 ^ s.params.timeW - 1
  windowBound : comparesWindow v.op s → v.now - k.pairStart ≤ 2 ^ s.params.timeW - 1

/-- A run the surroundings may make (70_reset R245): every duty is met at every operation. -/
def Admissible (k : Clock) (vs : List Invocation) (s : State) : Prop :=
  match vs with
  | [] => True
  | v :: vs =>
    DutyMet v s ∧ ClockMet k v s ∧
    match exec v.op s with
    | .next u => Admissible (k.after v s u) vs u
    | .fault _ => False
    | .refused _ => False

/-- Each operation begins no more than `gap` ms after the last TICK before it, which was at `last`. -/
def TicksWithin (gap last : Nat) (vs : List Invocation) : Prop :=
  match vs with
  | [] => True
  | v :: vs =>
    v.now ≤ last + gap ∧
    match v.op with
    | .tick _ _ => TicksWithin gap v.now vs
    | _ => TicksWithin gap last vs

/-- The clock advances: no more than `most` operations begin at one time (log 43). -/
def ClockAdvances (most : Nat) (vs : List Invocation) : Prop :=
  ∀ t, vs.countP (fun v => decide (v.now = t)) ≤ most

/-- The main loop keeps invoking TICK with a clock that advances (70_reset R244, R247), the last TICK before the run being
at `last`. Only a claim that something is eventually sent or cleared needs it. -/
structure KeepsTicking (gap most last : Nat) (vs : List Invocation) : Prop where
  ticks : TicksWithin gap last vs
  advances : ClockAdvances most vs

end Sys2Proof.Safety
end

