-- ==== Sys2Proof/Certificates/Slice0/Obligations.lean ====
section
/-! DEFINITION. The statements about the model: the numbered rules of spec/ that say what an instruction or the machine
does. A docstring names the rule; where a statement rests on a choice of the spec's own or of the model, it says so and
names the log entry. -/

open Sys2Proof Sys2Proof.Machine Sys2Proof.Safety

/-! ## Reset -/

/-- 70_reset section 1, entry point: any first operation runs; the block starts in USB mode, the parser Ready, the queue
empty, nothing written. That what is no operation of a run runs as well is the model's choice: rows outside their condition
(log 9), internal procedures (log 12), calls out of contract (log 11, log 15, log 16, log 17, log 28). -/
def Obligations.ResetStartsIdleAndRunsAnyFirstOperation : Prop :=
  ∀ p : Params,
    (State.resetWith p).activeMode = .usb ∧ (State.resetWith p).pstate = .ready ∧ (State.resetWith p).qdepth = 0 ∧
    liveEntries (State.resetWith p) = [] ∧ (State.resetWith p).tx = [] ∧
    ∀ i : Instr, ∃ u, exec i (State.resetWith p) = .next u

/-- 10_state section 7, the collected reset values. Only USB mode and disconnected are the source's; the others are the
spec's own choice (D11, log 6), the empty histories the model's (log 7), and so are that nothing is presented (log 1) and that
State holds the parameters, at reset the defaults for vectors of 00_scope section 4 (log 2). -/
def Obligations.ResetRegisterValues : Prop :=
  State.reset = State.resetWith Params.default ∧
  ∀ p : Params, ∃ s : State, State.resetWith p = s ∧
    s.pstate = .ready ∧ s.rxidx = 0 ∧ s.rxbuf = [] ∧ s.activeMode = .usb ∧ s.connected = false ∧ s.ledState = 0 ∧
    s.pairing = false ∧ s.pairStartTime = 0 ∧ s.sinkInstalled = false ∧ s.qmem = [] ∧ s.qhead = 0 ∧ s.qtail = 0 ∧
    s.qdepth = 0 ∧ s.lastSendTime = 0 ∧ s.lastActivityTime = 0 ∧ s.tx = [] ∧ s.events = [] ∧ s.results = [] ∧
    s.pending = [] ∧ s.params = p

/-! ## The frame parser -/

/-- R92. The row and the operation with its byte do the same. -/
def Obligations.ReadySyncByteStartsFrame : Prop :=
  ∀ s : State, s.pstate = .ready →
    exec .rxbReadySync s = .next { s with pstate := .syncSeen, rxidx := 1, rxbuf := [(0, 0x55)] } ∧
    exec (.rxbyte 0x55) s = exec .rxbReadySync s

/-- R93. -/
def Obligations.ReadyOtherByteIsDropped : Prop :=
  ∀ (s : State) (b : Byte), s.pstate = .ready → b ≠ 0x55 →
    exec (.rxbReadyNoise b) s = .next { s with events := s.events ++ [.drop (.noise b)] } ∧
    exec (.rxbyte b) s = exec (.rxbReadyNoise b) s

/-- R94. -/
def Obligations.SyncSeenAbsorbsRepeatedSync : Prop :=
  ∀ s : State, s.pstate = .syncSeen → exec .rxbSyncSync s = .next s ∧ exec (.rxbyte 0x55) s = .next s

/-- R95 and R96: a LEN byte is rejected, the bytes of the abandoned frame having no architectural value after
`rxidx <- 0`, or stored, with nothing but the parser changed and the stored SYNC kept. -/
def Obligations.SyncSeenRejectsOrStoresLength : Prop :=
  ∀ (s : State) (b : Byte), s.pstate = .syncSeen → b ≠ 0x55 →
    ((b.toNat < 2 ∨ b.toNat > s.params.maxFrameLen ∨ b.toNat + 2 > s.params.rxBufCap) →
      exec (.rxbSyncLenBad b) s =
        .next { s with pstate := .ready, rxidx := 0, rxbuf := [], events := s.events ++ [.reject .badLen b] } ∧
      exec (.rxbyte b) s = exec (.rxbSyncLenBad b) s) ∧
    (2 ≤ b.toNat → b.toNat ≤ s.params.maxFrameLen → b.toNat + 2 ≤ s.params.rxBufCap →
      ∃ u, exec (.rxbSyncLenOk b) s = .next u ∧ exec (.rxbyte b) s = .next u ∧
        u.pstate = .lenSeen ∧ u.rxidx = 2 ∧ rxAt u 1 = b ∧ rxAt u 0 = rxAt s 0 ∧
        u = { s with pstate := u.pstate, rxidx := u.rxidx, rxbuf := u.rxbuf })

/-- R98 and R99: a CMD byte is rejected or stored. -/
def Obligations.LenSeenRejectsOrStoresCommand : Prop :=
  ∀ (s : State) (b : Byte), s.pstate = .lenSeen →
    (b.toNat > s.params.cmdMax →
      exec (.rxbLenCmdBad b) s =
        .next { s with pstate := .ready, rxidx := 0, rxbuf := [], events := s.events ++ [.reject .badCmd b] } ∧
      exec (.rxbyte b) s = exec (.rxbLenCmdBad b) s) ∧
    (b.toNat ≤ s.params.cmdMax →
      ∃ u, exec (.rxbLenCmdOk b) s = .next u ∧ exec (.rxbyte b) s = .next u ∧
        u.pstate = .cmdSeen ∧ u.rxidx = 3 ∧ rxAt u 2 = b ∧ (∀ i, i < 2 → rxAt u i = rxAt s i) ∧
        u = { s with pstate := u.pstate, rxidx := u.rxidx, rxbuf := u.rxbuf })

/-- R101. -/
def Obligations.CmdSeenRejectsBadWorkmode : Prop :=
  ∀ (s : State) (b : Byte), s.pstate = .cmdSeen → b.toNat > s.params.workmodeMax →
    exec (.rxbCmdWmBad b) s =
      .next { s with pstate := .ready, rxidx := 0, rxbuf := [], events := s.events ++ [.reject .badWorkmode b] } ∧
    exec (.rxbyte b) s = exec (.rxbCmdWmBad b) s

/-- 40_parser section 5: the WORKMODE byte is stored, and a frame with LEN 2 completes at once, which is the spec's own
decision D8 (log 23). -/
def Obligations.CmdSeenStoresWorkmode : Prop :=
  ∀ (s : State) (b : Byte), s.pstate = .cmdSeen → b.toNat ≤ s.params.workmodeMax →
    ∃ u, exec (.rxbCmdWmOk b) s = .next u ∧ exec (.rxbyte b) s = .next u ∧
      ((rxAt s 1).toNat ≠ 2 → u.pstate = .awaitingPayload ∧ u.rxidx = 4 ∧ rxAt u 3 = b ∧
        (∀ i, i < 3 → rxAt u i = rxAt s i) ∧ u = { s with pstate := u.pstate, rxidx := u.rxidx, rxbuf := u.rxbuf }) ∧
      ((rxAt s 1).toNat = 2 →
        u = { s with
              pstate := .ready
              rxidx := 0
              rxbuf := []
              events := s.events ++ [.frameDone [rxAt s 0, rxAt s 1, rxAt s 2, b]] })

/-- R103 with R105 and R106: a payload byte is stored; when it is the frame's last, the frame row that its bytes decode
to runs, and the parser returns to Ready. The premise is the parser invariant R15. -/
def Obligations.PayloadByteIsStoredAndCompletesFrame : Prop :=
  ∀ (s : State) (b : Byte), s.params.Legal → ParserInv s → s.pstate = .awaitingPayload →
    ∃ u, exec (.rxbPayData b) s = .next u ∧ exec (.rxbyte b) s = .next u ∧
      (s.rxidx + 1 ≠ (rxAt s 1).toNat + 2 → u.pstate = .awaitingPayload ∧ u.rxidx = s.rxidx + 1 ∧ rxAt u s.rxidx = b ∧
        (∀ i, i < s.rxidx → rxAt u i = rxAt s i) ∧
        u = { s with pstate := u.pstate, rxidx := u.rxidx, rxbuf := u.rxbuf }) ∧
      (s.rxidx + 1 = (rxAt s 1).toNat + 2 → ∃ i v, decodeFrame s.ctx (rxBytes s s.rxidx ++ [b]) = .ok i ∧
        exec i s = .next v ∧ u = { v with pstate := .ready, rxidx := 0, rxbuf := [] })

/-- 40_parser section 6, the defensive bound, in every state (it is unreachable from reset). -/
def Obligations.FullBufferRejectsPayloadByte : Prop :=
  ∀ (s : State) (b : Byte), s.pstate = .awaitingPayload → s.rxidx ≥ s.params.rxBufCap →
    exec (.rxbPayOvf b) s =
      .next { s with pstate := .ready, rxidx := 0, rxbuf := [], events := s.events ++ [.reject .overflow b] } ∧
    exec (.rxbyte b) s = exec (.rxbPayOvf b) s

/-- 30_encoding section 3, 40_parser section 1: RXBYTE runs exactly the row its decode table selects. -/
def Obligations.RxbyteRunsTheRowItsTableSelects : Prop :=
  ∀ (s : State) (b : Byte), exec (.rxbyte b) s = exec (decodeLineByte s.ctx b) s

/-- 40_parser section 1 (R91's frame, 10_state R29): whatever the state, a received byte, as the operation or as any
byte-class row, changes nothing but the parser, the three status registers and the event log, and it completes. That a row
run where its condition does not hold receives its byte is the model's choice (log 9). -/
def Obligations.ReceivedByteTouchesOnlyParserAndStatus : Prop :=
  ∀ (s : State) (b : Byte) (i : Instr),
    i ∈ [.rxbyte b, .rxbReadySync, .rxbReadyNoise b, .rxbSyncSync, .rxbSyncLenBad b, .rxbSyncLenOk b, .rxbLenCmdBad b,
      .rxbLenCmdOk b, .rxbCmdWmBad b, .rxbCmdWmOk b, .rxbPayOvf b, .rxbPayData b] →
    ∃ u, exec i s = .next u ∧
      u = { s with
            pstate := u.pstate
            rxidx := u.rxidx
            rxbuf := u.rxbuf
            connected := u.connected
            ledState := u.ledState
            pairing := u.pairing
            events := u.events }

/-- R115: for any byte sequence the buffer index stays within the capacity, and no byte is stored beyond it. -/
def Obligations.BufferIndexNeverExceedsCapacity : Prop :=
  ∀ (s : State) (bytes : List Byte), s.params.Legal → ParserInv s →
    ∃ u, execAll (bytes.map .rxbyte) s = .next u ∧ u.rxidx ≤ s.params.rxBufCap ∧ ∀ c ∈ u.rxbuf, c.1 < s.params.rxBufCap

/-- 40_parser section 8, bounded resynchronisation: in AwaitingPayload, after as many bytes as LEN still counts, whatever
they are, the parser is Ready. -/
def Obligations.PayloadCountEndsInReady : Prop :=
  ∀ (s : State) (bytes : List Byte), s.params.Legal → ParserInv s → s.pstate = .awaitingPayload →
    bytes.length = (rxAt s 1).toNat + 2 - s.rxidx →
    bytes.length ≤ s.params.maxFrameLen - 2 ∧
    ∃ u, execAll (bytes.map .rxbyte) s = .next u ∧ u.pstate = .ready ∧ u.rxidx = 0

/-! ## Completed frames -/

/-- 40_parser section 7, CMD 0 for the active mode. That any DATA but 0 disconnects and that the frame ends pairing are
the spec's own decisions D23 and D15 (log 22). -/
def Obligations.ConnectivityFrameSetsConnected : Prop :=
  ∀ (s : State) (d : Byte),
    exec (.frmStatusConn s.activeMode.code d) s =
      .next { s with
              connected := decide (d = 0)
              pairing := false
              events := s.events ++ [.frameDone [0x55, 3, 0, s.activeMode.code, d]] }

/-- R110. -/
def Obligations.LedFrameSetsLedState : Prop :=
  ∀ (s : State) (d : Byte),
    exec (.frmStatusLed s.activeMode.code d) s =
      .next { s with ledState := d, events := s.events ++ [.frameDone [0x55, 3, 1, s.activeMode.code, d]] }

/-- 40_parser section 7, the row for other CMD values, which for the spec is CMD 2 alone. That a CMD above 2, which legal
parameters keep out, is ignored in the same way is the model's choice (log 36). -/
def Obligations.OtherCommandFrameIsIgnored : Prop :=
  ∀ (s : State) (c d : Byte), c ≠ 0 → c ≠ 1 →
    exec (.frmStatusOther c s.activeMode.code d) s =
      .next { s with
              events := s.events ++ [.frameDone [0x55, 3, c, s.activeMode.code, d],
                .drop (.ignoredCmd [0x55, 3, c, s.activeMode.code, d])] }

/-- 40_parser section 7, the stale-frame filter, for the stale row and for every other status row. That the other rows, run
outside their condition, are filtered too is the model's choice (log 9), and so is a CMD above 2 (log 36). -/
def Obligations.StaleStatusFrameHasNoEffect : Prop :=
  ∀ (s : State) (c w d : Byte), w ≠ s.activeMode.code →
    (∀ i ∈ [Instr.frmStatusStale c w d, .frmStatusOther c w d],
      exec i s =
        .next { s with events := s.events ++ [.frameDone [0x55, 3, c, w, d], .drop (.stale [0x55, 3, c, w, d])] }) ∧
    exec (.frmStatusConn w d) s =
      .next { s with events := s.events ++ [.frameDone [0x55, 3, 0, w, d], .drop (.stale [0x55, 3, 0, w, d])] } ∧
    exec (.frmStatusLed w d) s =
      .next { s with events := s.events ++ [.frameDone [0x55, 3, 1, w, d], .drop (.stale [0x55, 3, 1, w, d])] }

/-- 40_parser section 7, the row of every other frame: the event and nothing else. LEN counts CMD, WORKMODE and the payload
(R62); of a payload longer than a frame holds it is the low 8 bits of that number, the model's choice (log 33). -/
def Obligations.GenericFrameHasNoEffect : Prop :=
  ∀ (s : State) (c w : Byte) (payload : List Byte), payload.length ≠ 1 →
    exec (.frmGeneric c w payload) s =
      .next { s with
              events := s.events ++ [.frameDone (0x55 :: BitVec.ofNat 8 (payload.length + 2) :: c :: w :: payload)] }

/-- R108: the five bytes of a status frame, fed one at a time to a parser in Ready, have no effect but the STALE event
where WORKMODE is not the active mode, and are applied by their CMD where it is. A connectivity frame whose DATA is 0
connects; what else such a frame does (ConnectivityFrameSetsConnected) is the spec's own decision and is left open here. -/
def Obligations.StatusFrameIsAppliedIffForActiveMode : Prop :=
  ∀ (s : State) (c w d : Byte), s.params.Legal → s.pstate = .ready → s.rxidx = 0 → s.rxbuf = [] → c.toNat ≤ 2 →
    w.toNat ≤ 4 →
    ∃ u, execAll [.rxbyte 0x55, .rxbyte 3, .rxbyte c, .rxbyte w, .rxbyte d] s = .next u ∧
      (w ≠ s.activeMode.code → u =
        { s with events := s.events ++ [.frameDone [0x55, 3, c, w, d], .drop (.stale [0x55, 3, c, w, d])] }) ∧
      (w = s.activeMode.code → c = 0 →
        u = { s with connected := u.connected, pairing := u.pairing, events := u.events } ∧
        (d = 0 → u.connected = true)) ∧
      (w = s.activeMode.code → c = 1 → u = { s with ledState := d, events := u.events }) ∧
      (w = s.activeMode.code → c = 2 → u = { s with events := u.events })

/-! ## Outgoing frames -/

/-- R67. -/
def Obligations.KeyboardFrameBytes : Prop :=
  ∀ (s : State) (p0 p1 p2 p3 p4 p5 p6 p7 : Byte),
    exec (.encKbd [p0, p1, p2, p3, p4, p5, p6, p7]) s =
      .next { s with results := s.results ++ [.frame [0x55, 0x09, 0x01, p0, p1, p2, p3, p4, p5, p6, p7]] }

/-- 41_encoder, the three raw report frames. For a PAYLOAD_CAP above 255, which legal parameters keep out, the length byte is
the low 8 bits of the length, the model's choice (log 33). -/
def Obligations.RawReportFrameBytes : Prop :=
  ∀ (s : State) (payload : List Byte), 1 ≤ payload.length → payload.length ≤ s.params.payloadCap →
    ∀ i ∈ [Instr.encMouse payload, .encExtra payload, .encNkro payload],
      exec i s = .next { s with results := s.results ++ [.frame (0x55 :: BitVec.ofNat 8 payload.length :: payload)] }

/-- 41_encoder, the start frame. The ASCII digit is the spec's own decision D21 (log 31). -/
def Obligations.StartFrameBytes : Prop :=
  ∀ (s : State) (m : Byte), 1 ≤ m.toNat → m.toNat ≤ 4 →
    exec (.encStart m) s =
      .next { s with
              results := s.results ++ [.frame ([0x55, 0x14, 0x00, m] ++ s.params.deviceName ++ [0x2D, 0x30 + m, 0x00])] }

/-- R128, R129. -/
def Obligations.PairAndStopFrameBytes : Prop :=
  ∀ (s : State) (m : Byte), 1 ≤ m.toNat → m.toNat ≤ 4 →
    exec (.encPair m) s = .next { s with results := s.results ++ [.frame [0x55, 0x03, 0x00, m, 0x01]] } ∧
    exec .encStop s = .next { s with results := s.results ++ [.frame [0x55, 0x02, 0x00, 0x00]] }

/-- 41_encoder, first section: every frame an encoder row returns begins with `0x55`, and its second byte counts the
bytes that follow it. -/
def Obligations.EveryOutgoingFrameCountsItself : Prop :=
  ∀ (s u : State) (i : Instr) (f : List Byte), s.params.Legal → i.wf s.params = true → exec i s = .next u →
    u.results = s.results ++ [.frame f] →
    f.head? = some 0x55 ∧ f.length = (f.getD 1 0).toNat + 2

/-- 41_encoder, the wake burst: 60 zero bytes stamped `t`, and the time `t + WAKE_DELAY_MS`, kept to `TIME_W` bits
(log 5). That a burst run by itself leaves the timers is the spec's own decision D34 and the model's choice (log 26). -/
def Obligations.WakeBurstWritesSixtyZeros : Prop :=
  ∀ (s : State) (t : Nat),
    exec (.wakeBurst t) s =
      .next { s with
              tx := s.tx ++ List.replicate 60 (t % 2 ^ s.params.timeW, 0)
              results := s.results ++ [.resumeAt ((t + s.params.wakeDelayMs) % 2 ^ s.params.timeW)] }

/-! ## The report queue -/

/-- R141, with the frame: only the slot at `qtail`, `qtail` and `qdepth` change, and the result is true. -/
def Obligations.PushWritesTailSlot : Prop :=
  ∀ (s : State) (ty : ReportType) (payload : List Byte), 1 ≤ payload.length → payload.length ≤ s.params.payloadCap →
    (ty = .keyboard → payload.length = 8) → s.qdepth < s.params.queueCap →
    ∃ u, exec (.push ty payload) s = .next u ∧ u.results = s.results ++ [.pushed true] ∧
      slotAt u s.qtail = { type := ty, data := payload } ∧ (∀ a, a ≠ s.qtail → slotAt u a = slotAt s a) ∧
      u.qtail = (s.qtail + 1) % s.params.queueCap ∧ u.qdepth = s.qdepth + 1 ∧
      u = { s with qmem := u.qmem, qtail := u.qtail, qdepth := u.qdepth, results := u.results }

/-- 42_queue section on the refusing arms. That an illegal length is refused, and before the full test, is the spec's own
decision D7 (log 15). That a depth above QUEUE_CAP, which no run reaches, counts as full is the model's choice (log 34). -/
def Obligations.PushRefusesIllegalLengthAndFullQueue : Prop :=
  ∀ (s : State) (ty : ReportType) (payload : List Byte),
    (payload.length = 0 ∨ s.params.payloadCap < payload.length ∨ (ty = .keyboard ∧ payload.length ≠ 8) →
      exec (.push ty payload) s =
        .next { s with
                results := s.results ++ [.pushed false]
                events := s.events ++ [.drop (.badPushLen ty payload.length)] }) ∧
    (1 ≤ payload.length → payload.length ≤ s.params.payloadCap → (ty = .keyboard → payload.length = 8) →
      s.params.queueCap ≤ s.qdepth →
      exec (.push ty payload) s =
        .next { s with results := s.results ++ [.pushed false], events := s.events ++ [.drop (.queueFull ty)] })

/-- R143, R144. -/
def Obligations.PopReturnsOldestEntryOrNothing : Prop :=
  ∀ s : State,
    (0 < s.qdepth → ∃ u, exec .pop s = .next u ∧ u.results = s.results ++ [.popped (some (slotAt s s.qhead))] ∧
      u.qhead = (s.qhead + 1) % s.params.queueCap ∧ u.qdepth = s.qdepth - 1 ∧
      (∀ a, a ≠ s.qhead → slotAt u a = slotAt s a) ∧
      u = { s with qmem := u.qmem, qhead := u.qhead, qdepth := u.qdepth, results := u.results }) ∧
    (s.qdepth = 0 → exec .pop s = .next { s with results := s.results ++ [.popped none] })

/-- 42_queue, QCLEAR: the indices and the depth are zeroed and nothing is sent. That the slots then hold no architectural
value is the spec's own decision D29 (log 4). -/
def Obligations.QclearEmptiesTheQueue : Prop :=
  ∀ s : State,
    exec .qclear s = .next { s with qmem := [], qhead := 0, qtail := 0, qdepth := 0 } ∧
    ∀ u, exec .qclear s = .next u → liveEntries u = []

/-- 10_state R24, 42_queue R146: under the queue invariant the ring behaves as a list of at most `QUEUE_CAP` entries:
PUSH appends or refuses, POP takes the oldest, QCLEAR empties, nothing is reordered or merged, and each keeps the
invariant, so that the same holds of the next operation. -/
def Obligations.RingRefinesBoundedFifo : Prop :=
  ∀ s : State, QueueInv s →
    (∀ (ty : ReportType) (payload : List Byte), pushLenLegal s.params ty payload.length = true →
      ∃ u, exec (.push ty payload) s = .next u ∧ QueueInv u ∧
        ((liveEntries s).length < s.params.queueCap → liveEntries u = liveEntries s ++ [{ type := ty, data := payload }] ∧
          u.results = s.results ++ [.pushed true]) ∧
        (¬ (liveEntries s).length < s.params.queueCap → liveEntries u = liveEntries s ∧
          u.results = s.results ++ [.pushed false])) ∧
    (∃ u, exec .pop s = .next u ∧ QueueInv u ∧ liveEntries u = (liveEntries s).tail ∧
      u.results = s.results ++ [.popped (liveEntries s).head?]) ∧
    (∃ u, exec .qclear s = .next u ∧ QueueInv u ∧ liveEntries u = [])

/-- 42_queue, the overflow scenario: legal pushes on an empty queue, whatever their number, leave the first `QUEUE_CAP`
of them, in order, and refuse the rest. -/
def Obligations.OverflowKeepsOldestReports : Prop :=
  ∀ (s : State) (es : List Entry), QueueInv s → s.qdepth = 0 →
    (∀ e ∈ es, pushLenLegal s.params e.type e.data.length = true) →
    ∃ u, execAll (es.map fun e => .push e.type e.data) s = .next u ∧ liveEntries u = es.take s.params.queueCap ∧
      u.results = s.results ++ List.replicate (min es.length s.params.queueCap) (.pushed true) ++
        List.replicate (es.length - s.params.queueCap) (.pushed false)

/-! ## The transmit scheduler -/

/-- 43_scheduler, time arithmetic. The width and the modular subtraction are the spec's own decision D10 (log 5). -/
def Obligations.ElapsedIsModularDifference : Prop :=
  ∀ (p : Params) (t t0 : Nat),
    elapsed p t t0 < 2 ^ p.timeW ∧ (elapsed p t t0 : Int) = ((t : Int) - (t0 : Int)) % (2 ^ p.timeW : Int)

/-- R162, with R158's interval; at exactly the interval the entry is sent. -/
def Obligations.RateLimitedSchedDoesNothing : Prop :=
  ∀ (s : State) (t : Nat), 0 < s.qdepth →
    (elapsed s.params t s.lastSendTime < (if s.activeMode = .dongle then 2 else 8) → exec (.sched t) s = .next s) ∧
    (elapsed s.params t s.lastSendTime = (if s.activeMode = .dongle then 2 else 8) →
      ∃ u, exec (.sched t) s = .next u ∧ u.tx ≠ s.tx ∧ u.qdepth + 1 = s.qdepth)

/-- 43_scheduler, the idle and the sending arm: an empty queue causes no write and no burst, however long the silence.
Otherwise, once the interval has passed, the burst comes first when the silence exceeds 10000 ms, then the head entry's
frame, both timers, the pop, and nothing else. Stamping the frame after the burst's delay is the spec's own decision D12,
writing the timers with the frame only D34 (log 26); that stamps wrap at TIME_W bits is log 5. -/
def Obligations.SchedIdlesOrSendsHeadEntry : Prop :=
  ∀ (s : State) (t : Nat),
    (s.qdepth = 0 → exec (.sched t) s = .next s) ∧
    (0 < s.qdepth → (if s.activeMode = .dongle then 2 else 8) ≤ elapsed s.params t s.lastSendTime →
      ∃ u tw burst, exec (.sched t) s = .next u ∧
        (10000 < elapsed s.params t s.lastActivityTime →
          burst = List.replicate 60 (stamp s.params t, 0) ∧ tw = stamp s.params (t + s.params.wakeDelayMs)) ∧
        (elapsed s.params t s.lastActivityTime ≤ 10000 → burst = [] ∧ tw = stamp s.params t) ∧
        u.tx = s.tx ++ burst ++ (encodeReport (slotAt s s.qhead)).map (fun b => (tw, b)) ∧
        u.lastSendTime = tw ∧ u.lastActivityTime = tw ∧
        u.qhead = (s.qhead + 1) % s.params.queueCap ∧ u.qdepth = s.qdepth - 1 ∧
        (∀ a, a ≠ s.qhead → slotAt u a = slotAt s a) ∧
        u = { s with
              tx := u.tx
              lastSendTime := u.lastSendTime
              lastActivityTime := u.lastActivityTime
              qmem := u.qmem
              qhead := u.qhead
              qdepth := u.qdepth })

/-- 43_scheduler section 3, the rate property: when SCHED, alone or inside a TICK, writes anything, the queue was not
empty and at least the active mode's interval had passed since the last frame. That a TICK may hold more bytes than
RX_DRAIN_MAX is the model's choice (D27, log 30). -/
def Obligations.SchedNeverSendsWithinInterval : Prop :=
  ∀ (s u : State) (t : Nat) (bytes : List Byte), exec (.sched t) s = .next u ∨ exec (.tick t bytes) s = .next u →
    u.tx ≠ s.tx →
    0 < s.qdepth ∧ (if s.activeMode = .dongle then 2 else 8) ≤ elapsed s.params t s.lastSendTime

/-- 43_scheduler section 1: what SCHED does does not depend on `connected`, `pairing` or `sink_installed`, and it leaves
them. -/
def Obligations.SchedIgnoresLinkFlags : Prop :=
  ∀ (s : State) (t : Nat) (c p k : Bool),
    ∃ u, exec (.sched t) s = .next u ∧
      exec (.sched t) { s with connected := c, pairing := p, sinkInstalled := k } =
        .next { u with connected := c, pairing := p, sinkInstalled := k }

/-- 43_scheduler section 2: a TICK is its received bytes, then PAIRTMO, then SCHED. The order is the spec's own decision
D14 (log 25); that it is so of more bytes than RX_DRAIN_MAX too is the model's choice (D27, log 30). -/
def Obligations.TickIsDrainThenTimeoutThenSched : Prop :=
  ∀ (s : State) (t : Nat) (bytes : List Byte),
    ∃ u, execAll (bytes.map .rxbyte ++ [.pairtmo t, .sched t]) s = .next u ∧ exec (.tick t bytes) s = .next u

/-- 44_link_ops section 4, PAIRTMO. That the comparison is strict is the spec's own decision D16 (log 21). -/
def Obligations.PairTimeoutClearsPairingAfterWindow : Prop :=
  ∀ (s : State) (t : Nat),
    (60000 < elapsed s.params t s.pairStartTime → exec (.pairtmo t) s = .next { s with pairing := false }) ∧
    (elapsed s.params t s.pairStartTime ≤ 60000 → exec (.pairtmo t) s = .next s)

/-! ## Link operations -/

/-- R178, whose condition is the equality alone. (In USB mode that is START with 0.) -/
def Obligations.RedundantStartIsNoOp : Prop :=
  ∀ (s : State) (t : Nat), exec (.start s.activeMode.code t) s = .next s

/-- 44_link_ops, mode arguments outside `1 .. 4` (the spec's own decision D20, log 16; the encoder rows likewise, log 11),
and the reserved selectors of the spec's own numbering (30_encoding section 5, D25, log 17): nothing changes. -/
def Obligations.RefusedCallsChangeNothing : Prop :=
  (∀ (s : State) (m : Byte) (t : Nat), m = 0 ∨ 5 ≤ m.toNat →
    ∀ i ∈ [Instr.start m t, .pair m t, .encStart m, .encPair m], exec i s = .next s) ∧
  ∀ s : State, exec .reservedE s = .next s ∧ exec .reservedF s = .next s

/-- 44_link_ops section 1, the acting arm of START. That it clears `pairing` is the spec's own decision D17 (log 20), the
stamps D12 (log 26), the digit D21 (log 31), that it leaves `led_state` D24 (log 29); stamps wrap at TIME_W bits (log 5). -/
def Obligations.StartInstallsSessionAndSendsFrameTwice : Prop :=
  ∀ (s : State) (mode : Mode) (t : Nat), mode ≠ .usb → mode ≠ s.activeMode →
    ∃ t1 t2 f, t1 = stamp s.params (t + s.params.wakeDelayMs) ∧ t2 = stamp s.params (t1 + s.params.retxDelayMs) ∧
      f = [0x55, 0x14, 0x00, mode.code] ++ s.params.deviceName ++ [0x2D, 0x30 + mode.code, 0x00] ∧
      exec (.start mode.code t) s =
        .next { s with
                sinkInstalled := true
                connected := false
                pairing := false
                activeMode := mode
                qmem := []
                qhead := 0
                qtail := 0
                qdepth := 0
                tx := s.tx ++ List.replicate 60 (stamp s.params t, 0) ++ f.map (fun b => (t1, b)) ++
                  f.map (fun b => (t2, b))
                lastSendTime := t2
                lastActivityTime := t2 }

/-- 44_link_ops section 2, PAIR, for the active mode too. That it is not guarded and sends the pairing frame alone is the
spec's own decision D18 (log 19), the window's origin D16 (log 21), the stamps D12 (log 26), that it leaves `led_state` D24
(log 29); stamps wrap at TIME_W bits (log 5). -/
def Obligations.PairOpensWindowAndSendsFrameTwice : Prop :=
  ∀ (s : State) (mode : Mode) (t : Nat), mode ≠ .usb →
    ∃ t1 t2, t1 = stamp s.params (t + s.params.wakeDelayMs) ∧ t2 = stamp s.params (t1 + s.params.pairGapMs) ∧
      exec (.pair mode.code t) s =
        .next { s with
                sinkInstalled := true
                connected := false
                pairing := true
                pairStartTime := stamp s.params t
                activeMode := mode
                qmem := []
                qhead := 0
                qtail := 0
                qdepth := 0
                tx := s.tx ++ List.replicate 60 (stamp s.params t, 0) ++
                  [(t1, 0x55), (t1, 0x03), (t1, 0x00), (t1, mode.code), (t1, 0x01)] ++
                  [(t2, 0x55), (t2, 0x03), (t2, 0x00), (t2, mode.code), (t2, 0x01)]
                lastSendTime := t2
                lastActivityTime := t2 }

/-- 44_link_ops section 3, STOP. That it does nothing in USB mode and otherwise ends there is the spec's own decision D19
(log 18), the stamp D12 (log 26), that it leaves `led_state` D24 (log 29); stamps wrap at TIME_W bits (log 5). -/
def Obligations.StopDisconnectsAndClears : Prop :=
  ∀ (s : State) (t : Nat),
    (s.activeMode = .usb → exec (.stop t) s = .next s) ∧
    (s.activeMode ≠ .usb → ∃ t1, t1 = stamp s.params (t + s.params.wakeDelayMs) ∧
      exec (.stop t) s =
        .next { s with
                sinkInstalled := false
                connected := false
                pairing := false
                activeMode := .usb
                qmem := []
                qhead := 0
                qtail := 0
                qdepth := 0
                tx := s.tx ++ List.replicate 60 (stamp s.params t, 0) ++
                  [(t1, 0x55), (t1, 0x02), (t1, 0x00), (t1, 0x00)]
                lastSendTime := t1
                lastActivityTime := t1 })

/-- R189. -/
def Obligations.IsconnReadsConnected : Prop :=
  ∀ s : State, exec .isconn s = .next { s with results := s.results ++ [.connected s.connected] }

/-- 42_queue, QDEPTH (the spec's own operation, D29), and 45_report_sink, LEDQ: pure reads. -/
def Obligations.QdepthAndLedqAreReads : Prop :=
  ∀ s : State,
    exec .qdepth s = .next { s with results := s.results ++ [.depth s.qdepth] } ∧
    exec .ledq s = .next { s with results := s.results ++ [.leds s.ledState] }

/-! ## The report sink -/

/-- 45_report_sink, SUBMIT: while disconnected a report is dropped; while connected it is pushed and the result discarded.
That this holds while the sink is not installed too, a call outside the contract, is the spec's own decision D33
(log 28). -/
def Obligations.SubmitIsGuardedPush : Prop :=
  ∀ (s : State) (payload : List Byte),
    ∀ x ∈ [(Instr.submitKbd payload, ReportType.keyboard), (.submitMouse payload, .mouse),
      (.submitExtra payload, .extra), (.submitNkro payload, .nkro)],
    (s.connected = false → exec x.1 s = .next { s with events := s.events ++ [.drop (.linkDown x.2)] }) ∧
    (s.connected = true → ∃ u, exec (.push x.2 payload) s = .next u ∧
      exec x.1 s = .next { u with results := s.results })

/-! ## The whole machine -/

/-- 60_exceptions section 1, no fatal condition: every instruction completes in every state. The spec says it of operations on
inputs within their types; that the rest completes is the model's choice: rows outside their condition (log 9), internal
procedures (log 12), calls out of contract (log 11, log 15, log 16, log 17, log 28), operands too wide (log 5, log 33). -/
def Obligations.NoInstructionFaultsOrGetsStuck : Prop :=
  ∀ (i : Instr) (s : State), ∃ u, exec i s = .next u

/-- 20_memory section 3: a step takes the oldest presented item, decodes it in the state, and runs that instruction
whole; with nothing presented it waits (log 1); an item that encodes nothing is refused by name (log 37). That frames and encoder
requests can be presented is the model's choice (log 12). -/
def Obligations.StepRunsTheDecodedInstruction : Prop :=
  ∀ (s : State) (f : Fetch) (rest : List Fetch),
    (∀ i, s.pending = f :: rest → decode s.ctx f = .ok i → step s = exec i { s with pending := rest }) ∧
    (∀ e, s.pending = f :: rest → decode s.ctx f = .error e → step s = .refused (.undecodable e)) ∧
    (s.pending = [] → step s = .next s)

/-- A few words written out from the encodings: command words of 30_encoding section 5, wire bytes of
sections 1 to 3. The selectors are the spec's own numbering (D25, log 13), the reading of a table word the model's (log 14),
as is that of a wide clock line (log 5). -/
def Obligations.WrittenOutWordsDecode : Prop :=
  (∀ (c : DecodeCtx) (a : Args),
    decode c (.command 0b00001000 a) = .ok (.start a.m (a.t % 2 ^ c.params.timeW)) ∧
    decode c (.command 0b00001101 a) = .ok .ledq ∧
    decode c (.command 0b00000010 a) = .ok .pop ∧
    (a.data.length = a.len.toNat → decode c (.command 0b00011100 a) = .ok (.submitMouse a.data))) ∧
  decode .atReset (.lineByte 0b01010101) = .ok .rxbReadySync ∧
  decode .atReset (.rxFrame [0x55, 0x03, 0x01, 0x00, 0x07]) = .ok (.frmStatusLed 0 7) ∧
  decode .atReset (.rxFrame [0x55, 0x03, 0x01, 0x02, 0x07]) = .ok (.frmStatusStale 1 2 7) ∧
  decode .atReset (.txCommand [0x55, 0x02, 0x00, 0x00]) = .ok .encStop ∧
  decodeTableWord 24 0x550901 = some (.encKbd [0, 0, 0, 0, 0, 0, 0, 0])

/-- 30_encoding sections 1 to 5: decoding an encoded well-formed instruction, in a state its row belongs to, gives it
back with every operand. The command words are the spec's own numbering (D25, log 13). -/
def Obligations.DecodeOfEncodeIsIdentity : Prop :=
  ∀ (c : DecodeCtx) (i : Instr), c.params.Legal → i.wf c.params = true → i.selectedIn c = true →
    decode c (encode c.params i) = .ok i

/-- 30_encoding section 3: in each parser state every byte value belongs to one byte class and to no other: the decoded
row's condition holds, and any row of the byte classes whose condition holds for that byte is the decoded one. -/
def Obligations.ByteClassesPartitionTheBytes : Prop :=
  ∀ (c : DecodeCtx) (b : Byte) (i : Instr),
    (i.wf c.params = true ∧ i.selectedIn c = true ∧ encode c.params i = .lineByte b) ↔ i = decodeLineByte c b

/-- 10_state sections 2, 4 and 5 and 44_link_ops section 5: from every state with the invariant, whatever is presented, a
step gives a state with it. That the timers stay equal rests on D34 (log 26), that stamps fit TIME_W bits on log 5, and the
mode after a STOP on D19 (log 18). -/
def Obligations.StepKeepsInvariant : Prop :=
  ∀ s u : State, Inv s → step s = .next u → Inv u

/-- The invariant holds after reset, for every legal choice of parameters, and R6's defaults are legal. The reset values are
the spec's own decision D11 (log 6), the defaults log 2. -/
def Obligations.ResetMeetsInvariant : Prop :=
  (∀ p : Params, p.Legal → Inv (State.resetWith p)) ∧ Params.default.Legal

/-- 10_state sections 1, 6 and 7, 20_memory section 1: no instruction changes the parameters, which State holds by the model's
choice (log 2), and the transmit and event histories only grow. That the results are a history too (log 7), that events are
kept (log 8), and the list of what is presented (log 1) are the model's own. -/
def Obligations.HistoriesOnlyGrow : Prop :=
  ∀ (i : Instr) (s u : State), exec i s = .next u →
    u.params = s.params ∧ u.pending = s.pending ∧ s.tx <+: u.tx ∧ s.events <+: u.events ∧ s.results <+: u.results

/-- 10_state sections 2 and 7, 44_link_ops section 5: only a received byte, alone or in a TICK, changes the parser. -/
def Obligations.OnlyReceivedBytesChangeTheParser : Prop :=
  ∀ (i : Instr) (s u : State), exec i s = .next u → i.format ≠ .rxbyte → (∀ b, i ≠ .rxbyte b) →
    (∀ t bytes, i = .tick t bytes → bytes = []) →
    u.pstate = s.pstate ∧ u.rxidx = s.rxidx ∧ u.rxbuf = s.rxbuf

/-- 10_state section 7, the access table: only START, PAIR and STOP change the active mode and the sink flag, only PAIR
the start of the pairing window, and only they and the scheduler the timers: a bare WAKEBURST does not (D34, log 26). -/
def Obligations.OnlyLinkOperationsChangeTheMode : Prop :=
  ∀ (i : Instr) (s u : State), exec i s = .next u →
    ((∀ m t, i ≠ .start m t) → (∀ m t, i ≠ .pair m t) → (∀ t, i ≠ .stop t) →
      u.activeMode = s.activeMode ∧ u.sinkInstalled = s.sinkInstalled ∧
      ((∀ t, i ≠ .sched t) → (∀ t bytes, i ≠ .tick t bytes) →
        u.lastSendTime = s.lastSendTime ∧ u.lastActivityTime = s.lastActivityTime)) ∧
    ((∀ m t, i ≠ .pair m t) → u.pairStartTime = s.pairStartTime)

/-- 70_reset section 3, 00_scope section 4: no instruction blocks for more than 400 ms, and only one whose writes begin
with a wake burst blocks at all. The blocking time is what its writes show: a timed instruction that writes leaves both
timers, and the last byte on the wire, at its reading plus its blocking time; WAKEBURST returns that sum and leaves the
timers (log 26). A scheduler that finds no more than 10000 ms of silence does not block, nor does an instruction that writes
nothing or is given no reading, and the latter writes nothing. That stamps count the delays spent is the spec's own decision
D12 (log 26), that they wrap log 5. -/
def Obligations.BlockingTimeIsBounded : Prop :=
  ∀ (i : Instr) (s u : State), s.params.Legal → exec i s = .next u →
    busyTime i s ≤ 400 ∧ (u.tx = s.tx → busyTime i s = 0) ∧ (clockOf i = none → busyTime i s = 0 ∧ u.tx = s.tx) ∧
    (busyTime i s ≠ 0 → ∃ t rest, clockOf i = some t ∧
      u.tx = s.tx ++ List.replicate 60 (stamp s.params t, 0) ++ rest) ∧
    (∀ t, clockOf i = some t → u.tx ≠ s.tx → (∀ t', i ≠ .wakeBurst t') →
      u.lastSendTime = stamp s.params (t + busyTime i s) ∧ u.lastActivityTime = stamp s.params (t + busyTime i s) ∧
      ∃ b, u.tx.getLast? = some (stamp s.params (t + busyTime i s), b)) ∧
    (∀ t, i = .wakeBurst t → u.results = s.results ++ [.resumeAt (stamp s.params (t + busyTime i s))] ∧
      u.lastSendTime = s.lastSendTime ∧ u.lastActivityTime = s.lastActivityTime) ∧
    (∀ t, elapsed s.params t s.lastActivityTime ≤ 10000 → i = .sched t ∨ (∃ bytes, i = .tick t bytes) →
      busyTime i s = 0)

/-- 60_exceptions section 4, ownership: what a principal may invoke changes no register but those it owns, those it writes as
side effects, and those its operations reach through another's (`Principal.reaches`, the model's reading of the spec, log
42). The main loop as TICK's principal is the model's (log 42). -/
def Obligations.PrincipalsChangeOnlyTheirRegisters : Prop :=
  ∀ (q : Principal) (i : Instr) (s u : State), mayInvoke q i = true → exec i s = .next u →
    ∀ r, r ∉ q.mayChange → r.same s u
end

