-- ==== Sys2Proof/Laws/Clock.lean ====
section
/-! SUPPORT. The clock arithmetic: stamps and elapsed times stay within `TIME_W` bits. -/

namespace Sys2Proof.Machine

variable (p : Params) (t t0 : Nat)

theorem two_pow_timeW_pos : 0 < 2 ^ p.timeW := Nat.two_pow_pos _

theorem stamp_lt : stamp p t < 2 ^ p.timeW := Nat.mod_lt _ (two_pow_timeW_pos p)

@[simp] theorem stamp_stamp : stamp p (stamp p t) = stamp p t := Nat.mod_mod _ _

theorem stamp_eq_self (h : t < 2 ^ p.timeW) : stamp p t = t := Nat.mod_eq_of_lt h

@[simp] theorem stamp_afterWake : stamp p (afterWake p t) = afterWake p t := stamp_stamp p _

theorem elapsed_lt : elapsed p t t0 < 2 ^ p.timeW := Nat.mod_lt _ (two_pow_timeW_pos p)

/-- A clock reading that has not wrapped since the stamp: the plain difference. -/
theorem elapsed_of_le (h0 : t0 ≤ t) (h : t < 2 ^ p.timeW) : elapsed p t t0 = t - t0 := by
  unfold elapsed
  rw [Nat.mod_eq_of_lt (lt_of_le_of_lt h0 h), show t + (2 ^ p.timeW - t0) = (t - t0) + 2 ^ p.timeW by omega,
    Nat.add_mod_right, Nat.mod_eq_of_lt (by omega)]

/-- R257: within the wrap bound the elapsed time of two readings is the true time between them. -/
theorem elapsed_stamps (h0 : t0 ≤ t) (h : t - t0 ≤ 2 ^ p.timeW - 1) : elapsed p (stamp p t) (stamp p t0) = t - t0 := by
  have hpos := two_pow_timeW_pos p
  unfold elapsed stamp
  generalize 2 ^ p.timeW = n at *
  rw [Nat.mod_mod, Nat.mod_add_mod]
  have hlt := Nat.mod_lt t0 hpos
  have hd := Nat.div_add_mod t0 n
  rw [show t + (n - t0 % n) = (t - t0) + n * (t0 / n + 1) by rw [Nat.mul_add]; omega, Nat.add_mul_mod_self_left,
    Nat.mod_eq_of_lt (by omega)]

/-- Delays spent one after another wrap as their sum does. -/
@[simp] theorem stamp_stamp_add (d : Nat) : stamp p (stamp p t + d) = stamp p (t + d) := Nat.mod_add_mod _ _ _

end Sys2Proof.Machine
end

