-- ==== Sys2Proof/Laws/Memory.lean ====
section
/-! SUPPORT. The laws of the sparse memories: a read after a write, an erasure or a truncation, and that each keeps the
canonical form. -/

namespace Sys2Proof.Machine

variable {α : Type} (m : List (Nat × α)) (a b n : Nat) (v : α)

@[simp] theorem memRead_nil : memRead ([] : List (Nat × α)) a = none := rfl

theorem memRead_cons (k : Nat) (w : α) : memRead ((k, w) :: m) a = if a = k then some w else memRead m a := rfl

@[simp] theorem memRead_memWrite_same : memRead (memWrite m a v) a = some v := by
  induction m with
  | nil => simp [memWrite, memRead]
  | cons c m ih =>
    obtain ⟨k, w⟩ := c
    simp only [memWrite]
    split
    · simp [memRead]
    · split
      · simp [memRead]
      · simp [memRead, *]

theorem memRead_memWrite_other (h : b ≠ a) : memRead (memWrite m a v) b = memRead m b := by
  induction m with
  | nil => simp [memWrite, memRead, h]
  | cons c m ih =>
    obtain ⟨k, w⟩ := c
    simp only [memWrite]
    split
    · simp [memRead, h]
    · split
      next hk => subst hk; simp [memRead, h]
      · simp [memRead, ih]

theorem memRead_memWrite : memRead (memWrite m a v) b = if b = a then some v else memRead m b := by
  split
  next h => subst h; simp
  next h => exact memRead_memWrite_other m a b v h

theorem memRead_memErase : memRead (memErase m a) b = if b = a then none else memRead m b := by
  induction m with
  | nil => simp [memErase]
  | cons c m ih =>
    obtain ⟨k, w⟩ := c
    simp only [memErase, List.filter_cons] at ih ⊢
    by_cases hk : k = a <;> by_cases hb : b = k <;> simp_all [memRead]

theorem memRead_memBelow : memRead (memBelow m n) b = if b < n then memRead m b else none := by
  induction m with
  | nil => simp [memBelow]
  | cons c m ih =>
    obtain ⟨k, w⟩ := c
    simp only [memBelow, List.filter_cons] at ih ⊢
    by_cases hk : k < n
    · simp only [hk, decide_true, if_true, memRead, ih]
      by_cases hb : b = k
      · simp [hb, hk]
      · simp [hb]
    · simp only [hk, decide_false, memRead, ih, Bool.false_eq_true, if_false]
      by_cases hb : b = k
      · simp [hb, hk]
      · simp [hb]

/-- An address is listed exactly when a read of it gives a value. -/
theorem memRead_isSome : (memRead m a).isSome = true ↔ a ∈ m.map Prod.fst := by
  induction m with
  | nil => simp
  | cons c m ih => obtain ⟨k, w⟩ := c; by_cases h : a = k <;> simp_all [memRead]

theorem mem_of_memRead {v : α} (h : memRead m a = some v) : (a, v) ∈ m := by
  induction m with
  | nil => simp at h
  | cons c m ih =>
    obtain ⟨k, w⟩ := c
    simp only [memRead] at h
    split at h
    next hk => cases h; subst hk; simp
    · exact List.mem_cons_of_mem _ (ih h)

/-- A cell after a write is the written one, or one that was there. -/
theorem mem_memWrite {c : Nat × α} (h : c ∈ memWrite m a v) : c = (a, v) ∨ c ∈ m := by
  induction m with
  | nil => simp [memWrite] at h; exact .inl h
  | cons d m ih =>
    obtain ⟨k, w⟩ := d
    simp only [memWrite] at h
    split at h
    · simpa using h
    · split at h
      · simp only [List.mem_cons] at h ⊢; tauto
      · simp only [List.mem_cons] at h ⊢; tauto

theorem memWf_nil : memWf ([] : List (Nat × α)) := List.Pairwise.nil

/-- A write keeps the canonical form. -/
theorem memWf_memWrite (h : memWf m) : memWf (memWrite m a v) := by
  induction m with
  | nil => simp [memWrite, memWf]
  | cons c m ih =>
    obtain ⟨k, w⟩ := c
    simp only [memWf, List.map_cons, List.pairwise_cons] at h
    obtain ⟨hk, hm⟩ := h
    simp only [memWrite]
    split
    next hlt =>
      simp only [memWf, List.map_cons, List.pairwise_cons]
      refine ⟨?_, hk, hm⟩
      intro x hx
      rcases List.mem_cons.1 hx with rfl | hx
      · exact hlt
      · exact lt_trans hlt (hk x hx)
    · split
      next heq =>
        subst heq
        simp only [memWf, List.map_cons, List.pairwise_cons]
        exact ⟨hk, hm⟩
      next hge hne =>
        simp only [memWf, List.map_cons, List.pairwise_cons]
        refine ⟨?_, ih hm⟩
        intro x hx
        obtain ⟨c, hc, rfl⟩ := List.mem_map.1 hx
        rcases mem_memWrite m a v hc with rfl | hc
        · exact lt_of_le_of_ne (not_lt.1 hge) (fun h => hne h.symm)
        · exact hk _ (List.mem_map_of_mem hc)

theorem memWf_filter (p : Nat × α → Bool) (h : memWf m) : memWf (m.filter p) :=
  List.Pairwise.sublist (List.Sublist.map _ List.filter_sublist) h

/-- An erasure keeps the canonical form. -/
theorem memWf_memErase (h : memWf m) : memWf (memErase m a) := memWf_filter _ _ h

/-- A truncation keeps the canonical form. -/
theorem memWf_memBelow (h : memWf m) : memWf (memBelow m n) := memWf_filter _ _ h

@[simp] theorem memBelow_zero : memBelow m 0 = [] := by simp [memBelow]

/-- Writing at the first free index of a memory that lists exactly the indices below it appends a cell. -/
theorem memWrite_append (h : m.map Prod.fst = List.range n) : memWrite m n v = m ++ [(n, v)] := by
  have hall : ∀ c ∈ m, c.1 < n := fun c hc => List.mem_range.1 (h ▸ List.mem_map_of_mem hc)
  clear h
  induction m with
  | nil => rfl
  | cons c m ih =>
    obtain ⟨k, w⟩ := c
    have hk : k < n := hall (k, w) (by simp)
    simp only [memWrite, not_lt.2 hk.le, ite_false, hk.ne', List.cons_append]
    rw [ih fun c hc => hall c (by simp [hc])]

/-- A truncation above every listed address changes nothing. -/
theorem memBelow_eq_self (h : ∀ c ∈ m, c.1 < n) : memBelow m n = m :=
  List.filter_eq_self.2 fun c hc => by simpa using h c hc

end Sys2Proof.Machine
end

