-- ==== Sys2Proof/Laws/State.lean ====
section
/-! SUPPORT. The small lemmas of the state: for each shared operation that updates it, one lemma per field, true by rfl, so
that no later proof unfolds a record update. -/

namespace Sys2Proof.Machine

variable (s : State)

/-! ### `emit`: the event log (10_state R33) -/

@[simp] theorem emit_params (e : Event) : (emit e s).params = s.params := rfl
@[simp] theorem emit_pstate (e : Event) : (emit e s).pstate = s.pstate := rfl
@[simp] theorem emit_rxidx (e : Event) : (emit e s).rxidx = s.rxidx := rfl
@[simp] theorem emit_rxbuf (e : Event) : (emit e s).rxbuf = s.rxbuf := rfl
@[simp] theorem emit_activeMode (e : Event) : (emit e s).activeMode = s.activeMode := rfl
@[simp] theorem emit_connected (e : Event) : (emit e s).connected = s.connected := rfl
@[simp] theorem emit_ledState (e : Event) : (emit e s).ledState = s.ledState := rfl
@[simp] theorem emit_pairing (e : Event) : (emit e s).pairing = s.pairing := rfl
@[simp] theorem emit_pairStartTime (e : Event) : (emit e s).pairStartTime = s.pairStartTime := rfl
@[simp] theorem emit_sinkInstalled (e : Event) : (emit e s).sinkInstalled = s.sinkInstalled := rfl
@[simp] theorem emit_qmem (e : Event) : (emit e s).qmem = s.qmem := rfl
@[simp] theorem emit_qhead (e : Event) : (emit e s).qhead = s.qhead := rfl
@[simp] theorem emit_qtail (e : Event) : (emit e s).qtail = s.qtail := rfl
@[simp] theorem emit_qdepth (e : Event) : (emit e s).qdepth = s.qdepth := rfl
@[simp] theorem emit_lastSendTime (e : Event) : (emit e s).lastSendTime = s.lastSendTime := rfl
@[simp] theorem emit_lastActivityTime (e : Event) : (emit e s).lastActivityTime = s.lastActivityTime := rfl
@[simp] theorem emit_tx (e : Event) : (emit e s).tx = s.tx := rfl
@[simp] theorem emit_events (e : Event) : (emit e s).events = s.events ++ [e] := rfl
@[simp] theorem emit_results (e : Event) : (emit e s).results = s.results := rfl
@[simp] theorem emit_pending (e : Event) : (emit e s).pending = s.pending := rfl

/-! ### `giveResult`: the result history -/

@[simp] theorem giveResult_params (r : Result) : (giveResult r s).params = s.params := rfl
@[simp] theorem giveResult_pstate (r : Result) : (giveResult r s).pstate = s.pstate := rfl
@[simp] theorem giveResult_rxidx (r : Result) : (giveResult r s).rxidx = s.rxidx := rfl
@[simp] theorem giveResult_rxbuf (r : Result) : (giveResult r s).rxbuf = s.rxbuf := rfl
@[simp] theorem giveResult_activeMode (r : Result) : (giveResult r s).activeMode = s.activeMode := rfl
@[simp] theorem giveResult_connected (r : Result) : (giveResult r s).connected = s.connected := rfl
@[simp] theorem giveResult_ledState (r : Result) : (giveResult r s).ledState = s.ledState := rfl
@[simp] theorem giveResult_pairing (r : Result) : (giveResult r s).pairing = s.pairing := rfl
@[simp] theorem giveResult_pairStartTime (r : Result) : (giveResult r s).pairStartTime = s.pairStartTime := rfl
@[simp] theorem giveResult_sinkInstalled (r : Result) : (giveResult r s).sinkInstalled = s.sinkInstalled := rfl
@[simp] theorem giveResult_qmem (r : Result) : (giveResult r s).qmem = s.qmem := rfl
@[simp] theorem giveResult_qhead (r : Result) : (giveResult r s).qhead = s.qhead := rfl
@[simp] theorem giveResult_qtail (r : Result) : (giveResult r s).qtail = s.qtail := rfl
@[simp] theorem giveResult_qdepth (r : Result) : (giveResult r s).qdepth = s.qdepth := rfl
@[simp] theorem giveResult_lastSendTime (r : Result) : (giveResult r s).lastSendTime = s.lastSendTime := rfl
@[simp] theorem giveResult_lastActivityTime (r : Result) : (giveResult r s).lastActivityTime = s.lastActivityTime := rfl
@[simp] theorem giveResult_tx (r : Result) : (giveResult r s).tx = s.tx := rfl
@[simp] theorem giveResult_events (r : Result) : (giveResult r s).events = s.events := rfl
@[simp] theorem giveResult_results (r : Result) : (giveResult r s).results = s.results ++ [r] := rfl
@[simp] theorem giveResult_pending (r : Result) : (giveResult r s).pending = s.pending := rfl

/-! ### `wireWrite`: `WireWrite` (20_memory R46) -/

@[simp] theorem wireWrite_params (bs : List Byte) (t : Nat) : (wireWrite bs t s).params = s.params := rfl
@[simp] theorem wireWrite_pstate (bs : List Byte) (t : Nat) : (wireWrite bs t s).pstate = s.pstate := rfl
@[simp] theorem wireWrite_rxidx (bs : List Byte) (t : Nat) : (wireWrite bs t s).rxidx = s.rxidx := rfl
@[simp] theorem wireWrite_rxbuf (bs : List Byte) (t : Nat) : (wireWrite bs t s).rxbuf = s.rxbuf := rfl
@[simp] theorem wireWrite_activeMode (bs : List Byte) (t : Nat) : (wireWrite bs t s).activeMode = s.activeMode := rfl
@[simp] theorem wireWrite_connected (bs : List Byte) (t : Nat) : (wireWrite bs t s).connected = s.connected := rfl
@[simp] theorem wireWrite_ledState (bs : List Byte) (t : Nat) : (wireWrite bs t s).ledState = s.ledState := rfl
@[simp] theorem wireWrite_pairing (bs : List Byte) (t : Nat) : (wireWrite bs t s).pairing = s.pairing := rfl
@[simp] theorem wireWrite_pairStartTime (bs : List Byte) (t : Nat) : (wireWrite bs t s).pairStartTime = s.pairStartTime := rfl
@[simp] theorem wireWrite_sinkInstalled (bs : List Byte) (t : Nat) : (wireWrite bs t s).sinkInstalled = s.sinkInstalled := rfl
@[simp] theorem wireWrite_qmem (bs : List Byte) (t : Nat) : (wireWrite bs t s).qmem = s.qmem := rfl
@[simp] theorem wireWrite_qhead (bs : List Byte) (t : Nat) : (wireWrite bs t s).qhead = s.qhead := rfl
@[simp] theorem wireWrite_qtail (bs : List Byte) (t : Nat) : (wireWrite bs t s).qtail = s.qtail := rfl
@[simp] theorem wireWrite_qdepth (bs : List Byte) (t : Nat) : (wireWrite bs t s).qdepth = s.qdepth := rfl
@[simp] theorem wireWrite_lastSendTime (bs : List Byte) (t : Nat) : (wireWrite bs t s).lastSendTime = s.lastSendTime := rfl
@[simp] theorem wireWrite_lastActivityTime (bs : List Byte) (t : Nat) : (wireWrite bs t s).lastActivityTime = s.lastActivityTime := rfl
@[simp] theorem wireWrite_tx (bs : List Byte) (t : Nat) : (wireWrite bs t s).tx = s.tx ++ bs.map fun b => (stamp s.params t, b) := rfl
@[simp] theorem wireWrite_events (bs : List Byte) (t : Nat) : (wireWrite bs t s).events = s.events := rfl
@[simp] theorem wireWrite_results (bs : List Byte) (t : Nat) : (wireWrite bs t s).results = s.results := rfl
@[simp] theorem wireWrite_pending (bs : List Byte) (t : Nat) : (wireWrite bs t s).pending = s.pending := rfl

/-! ### `frameWrite`: `FrameWrite` (43_scheduler R160) -/

@[simp] theorem frameWrite_params (f : List Byte) (t : Nat) : (frameWrite f t s).params = s.params := rfl
@[simp] theorem frameWrite_pstate (f : List Byte) (t : Nat) : (frameWrite f t s).pstate = s.pstate := rfl
@[simp] theorem frameWrite_rxidx (f : List Byte) (t : Nat) : (frameWrite f t s).rxidx = s.rxidx := rfl
@[simp] theorem frameWrite_rxbuf (f : List Byte) (t : Nat) : (frameWrite f t s).rxbuf = s.rxbuf := rfl
@[simp] theorem frameWrite_activeMode (f : List Byte) (t : Nat) : (frameWrite f t s).activeMode = s.activeMode := rfl
@[simp] theorem frameWrite_connected (f : List Byte) (t : Nat) : (frameWrite f t s).connected = s.connected := rfl
@[simp] theorem frameWrite_ledState (f : List Byte) (t : Nat) : (frameWrite f t s).ledState = s.ledState := rfl
@[simp] theorem frameWrite_pairing (f : List Byte) (t : Nat) : (frameWrite f t s).pairing = s.pairing := rfl
@[simp] theorem frameWrite_pairStartTime (f : List Byte) (t : Nat) : (frameWrite f t s).pairStartTime = s.pairStartTime := rfl
@[simp] theorem frameWrite_sinkInstalled (f : List Byte) (t : Nat) : (frameWrite f t s).sinkInstalled = s.sinkInstalled := rfl
@[simp] theorem frameWrite_qmem (f : List Byte) (t : Nat) : (frameWrite f t s).qmem = s.qmem := rfl
@[simp] theorem frameWrite_qhead (f : List Byte) (t : Nat) : (frameWrite f t s).qhead = s.qhead := rfl
@[simp] theorem frameWrite_qtail (f : List Byte) (t : Nat) : (frameWrite f t s).qtail = s.qtail := rfl
@[simp] theorem frameWrite_qdepth (f : List Byte) (t : Nat) : (frameWrite f t s).qdepth = s.qdepth := rfl
@[simp] theorem frameWrite_lastSendTime (f : List Byte) (t : Nat) : (frameWrite f t s).lastSendTime = stamp s.params t := rfl
@[simp] theorem frameWrite_lastActivityTime (f : List Byte) (t : Nat) : (frameWrite f t s).lastActivityTime = stamp s.params t := rfl
@[simp] theorem frameWrite_tx (f : List Byte) (t : Nat) : (frameWrite f t s).tx = s.tx ++ f.map fun b => (stamp s.params t, b) := rfl
@[simp] theorem frameWrite_events (f : List Byte) (t : Nat) : (frameWrite f t s).events = s.events := rfl
@[simp] theorem frameWrite_results (f : List Byte) (t : Nat) : (frameWrite f t s).results = s.results := rfl
@[simp] theorem frameWrite_pending (f : List Byte) (t : Nat) : (frameWrite f t s).pending = s.pending := rfl

/-! ### `wakeBurst`: the wake burst (41_encoder R130) -/

@[simp] theorem wakeBurst_params (t : Nat) : (wakeBurst t s).params = s.params := rfl
@[simp] theorem wakeBurst_pstate (t : Nat) : (wakeBurst t s).pstate = s.pstate := rfl
@[simp] theorem wakeBurst_rxidx (t : Nat) : (wakeBurst t s).rxidx = s.rxidx := rfl
@[simp] theorem wakeBurst_rxbuf (t : Nat) : (wakeBurst t s).rxbuf = s.rxbuf := rfl
@[simp] theorem wakeBurst_activeMode (t : Nat) : (wakeBurst t s).activeMode = s.activeMode := rfl
@[simp] theorem wakeBurst_connected (t : Nat) : (wakeBurst t s).connected = s.connected := rfl
@[simp] theorem wakeBurst_ledState (t : Nat) : (wakeBurst t s).ledState = s.ledState := rfl
@[simp] theorem wakeBurst_pairing (t : Nat) : (wakeBurst t s).pairing = s.pairing := rfl
@[simp] theorem wakeBurst_pairStartTime (t : Nat) : (wakeBurst t s).pairStartTime = s.pairStartTime := rfl
@[simp] theorem wakeBurst_sinkInstalled (t : Nat) : (wakeBurst t s).sinkInstalled = s.sinkInstalled := rfl
@[simp] theorem wakeBurst_qmem (t : Nat) : (wakeBurst t s).qmem = s.qmem := rfl
@[simp] theorem wakeBurst_qhead (t : Nat) : (wakeBurst t s).qhead = s.qhead := rfl
@[simp] theorem wakeBurst_qtail (t : Nat) : (wakeBurst t s).qtail = s.qtail := rfl
@[simp] theorem wakeBurst_qdepth (t : Nat) : (wakeBurst t s).qdepth = s.qdepth := rfl
@[simp] theorem wakeBurst_lastSendTime (t : Nat) : (wakeBurst t s).lastSendTime = s.lastSendTime := rfl
@[simp] theorem wakeBurst_lastActivityTime (t : Nat) : (wakeBurst t s).lastActivityTime = s.lastActivityTime := rfl
@[simp] theorem wakeBurst_tx (t : Nat) : (wakeBurst t s).tx = s.tx ++ wakeBurstBytes.map fun b => (stamp s.params t, b) := rfl
@[simp] theorem wakeBurst_events (t : Nat) : (wakeBurst t s).events = s.events := rfl
@[simp] theorem wakeBurst_results (t : Nat) : (wakeBurst t s).results = s.results := rfl
@[simp] theorem wakeBurst_pending (t : Nat) : (wakeBurst t s).pending = s.pending := rfl

/-! ### `raiseDrop`: a drop (60_exceptions R211) -/

@[simp] theorem raiseDrop_params (c : DropCause) : (raiseDrop c s).params = s.params := rfl
@[simp] theorem raiseDrop_pstate (c : DropCause) : (raiseDrop c s).pstate = s.pstate := rfl
@[simp] theorem raiseDrop_rxidx (c : DropCause) : (raiseDrop c s).rxidx = s.rxidx := rfl
@[simp] theorem raiseDrop_rxbuf (c : DropCause) : (raiseDrop c s).rxbuf = s.rxbuf := rfl
@[simp] theorem raiseDrop_activeMode (c : DropCause) : (raiseDrop c s).activeMode = s.activeMode := rfl
@[simp] theorem raiseDrop_connected (c : DropCause) : (raiseDrop c s).connected = s.connected := rfl
@[simp] theorem raiseDrop_ledState (c : DropCause) : (raiseDrop c s).ledState = s.ledState := rfl
@[simp] theorem raiseDrop_pairing (c : DropCause) : (raiseDrop c s).pairing = s.pairing := rfl
@[simp] theorem raiseDrop_pairStartTime (c : DropCause) : (raiseDrop c s).pairStartTime = s.pairStartTime := rfl
@[simp] theorem raiseDrop_sinkInstalled (c : DropCause) : (raiseDrop c s).sinkInstalled = s.sinkInstalled := rfl
@[simp] theorem raiseDrop_qmem (c : DropCause) : (raiseDrop c s).qmem = s.qmem := rfl
@[simp] theorem raiseDrop_qhead (c : DropCause) : (raiseDrop c s).qhead = s.qhead := rfl
@[simp] theorem raiseDrop_qtail (c : DropCause) : (raiseDrop c s).qtail = s.qtail := rfl
@[simp] theorem raiseDrop_qdepth (c : DropCause) : (raiseDrop c s).qdepth = s.qdepth := rfl
@[simp] theorem raiseDrop_lastSendTime (c : DropCause) : (raiseDrop c s).lastSendTime = s.lastSendTime := rfl
@[simp] theorem raiseDrop_lastActivityTime (c : DropCause) : (raiseDrop c s).lastActivityTime = s.lastActivityTime := rfl
@[simp] theorem raiseDrop_tx (c : DropCause) : (raiseDrop c s).tx = s.tx := rfl
@[simp] theorem raiseDrop_events (c : DropCause) : (raiseDrop c s).events = s.events ++ [.drop c] := rfl
@[simp] theorem raiseDrop_results (c : DropCause) : (raiseDrop c s).results = s.results := rfl
@[simp] theorem raiseDrop_pending (c : DropCause) : (raiseDrop c s).pending = s.pending := rfl

/-! ### `setRxidx`: `rxidx <- n` -/

@[simp] theorem setRxidx_params (n : Nat) : (setRxidx n s).params = s.params := rfl
@[simp] theorem setRxidx_pstate (n : Nat) : (setRxidx n s).pstate = s.pstate := rfl
@[simp] theorem setRxidx_rxidx (n : Nat) : (setRxidx n s).rxidx = n := rfl
@[simp] theorem setRxidx_rxbuf (n : Nat) : (setRxidx n s).rxbuf = memBelow s.rxbuf n := rfl
@[simp] theorem setRxidx_activeMode (n : Nat) : (setRxidx n s).activeMode = s.activeMode := rfl
@[simp] theorem setRxidx_connected (n : Nat) : (setRxidx n s).connected = s.connected := rfl
@[simp] theorem setRxidx_ledState (n : Nat) : (setRxidx n s).ledState = s.ledState := rfl
@[simp] theorem setRxidx_pairing (n : Nat) : (setRxidx n s).pairing = s.pairing := rfl
@[simp] theorem setRxidx_pairStartTime (n : Nat) : (setRxidx n s).pairStartTime = s.pairStartTime := rfl
@[simp] theorem setRxidx_sinkInstalled (n : Nat) : (setRxidx n s).sinkInstalled = s.sinkInstalled := rfl
@[simp] theorem setRxidx_qmem (n : Nat) : (setRxidx n s).qmem = s.qmem := rfl
@[simp] theorem setRxidx_qhead (n : Nat) : (setRxidx n s).qhead = s.qhead := rfl
@[simp] theorem setRxidx_qtail (n : Nat) : (setRxidx n s).qtail = s.qtail := rfl
@[simp] theorem setRxidx_qdepth (n : Nat) : (setRxidx n s).qdepth = s.qdepth := rfl
@[simp] theorem setRxidx_lastSendTime (n : Nat) : (setRxidx n s).lastSendTime = s.lastSendTime := rfl
@[simp] theorem setRxidx_lastActivityTime (n : Nat) : (setRxidx n s).lastActivityTime = s.lastActivityTime := rfl
@[simp] theorem setRxidx_tx (n : Nat) : (setRxidx n s).tx = s.tx := rfl
@[simp] theorem setRxidx_events (n : Nat) : (setRxidx n s).events = s.events := rfl
@[simp] theorem setRxidx_results (n : Nat) : (setRxidx n s).results = s.results := rfl
@[simp] theorem setRxidx_pending (n : Nat) : (setRxidx n s).pending = s.pending := rfl

/-! ### `setPState`: `pstate <- st` -/

@[simp] theorem setPState_params (st : PState) : (setPState st s).params = s.params := rfl
@[simp] theorem setPState_pstate (st : PState) : (setPState st s).pstate = st := rfl
@[simp] theorem setPState_rxidx (st : PState) : (setPState st s).rxidx = s.rxidx := rfl
@[simp] theorem setPState_rxbuf (st : PState) : (setPState st s).rxbuf = s.rxbuf := rfl
@[simp] theorem setPState_activeMode (st : PState) : (setPState st s).activeMode = s.activeMode := rfl
@[simp] theorem setPState_connected (st : PState) : (setPState st s).connected = s.connected := rfl
@[simp] theorem setPState_ledState (st : PState) : (setPState st s).ledState = s.ledState := rfl
@[simp] theorem setPState_pairing (st : PState) : (setPState st s).pairing = s.pairing := rfl
@[simp] theorem setPState_pairStartTime (st : PState) : (setPState st s).pairStartTime = s.pairStartTime := rfl
@[simp] theorem setPState_sinkInstalled (st : PState) : (setPState st s).sinkInstalled = s.sinkInstalled := rfl
@[simp] theorem setPState_qmem (st : PState) : (setPState st s).qmem = s.qmem := rfl
@[simp] theorem setPState_qhead (st : PState) : (setPState st s).qhead = s.qhead := rfl
@[simp] theorem setPState_qtail (st : PState) : (setPState st s).qtail = s.qtail := rfl
@[simp] theorem setPState_qdepth (st : PState) : (setPState st s).qdepth = s.qdepth := rfl
@[simp] theorem setPState_lastSendTime (st : PState) : (setPState st s).lastSendTime = s.lastSendTime := rfl
@[simp] theorem setPState_lastActivityTime (st : PState) : (setPState st s).lastActivityTime = s.lastActivityTime := rfl
@[simp] theorem setPState_tx (st : PState) : (setPState st s).tx = s.tx := rfl
@[simp] theorem setPState_events (st : PState) : (setPState st s).events = s.events := rfl
@[simp] theorem setPState_results (st : PState) : (setPState st s).results = s.results := rfl
@[simp] theorem setPState_pending (st : PState) : (setPState st s).pending = s.pending := rfl

/-! ### `parserToReady`: the return to Ready -/

@[simp] theorem parserToReady_params : (parserToReady s).params = s.params := rfl
@[simp] theorem parserToReady_pstate : (parserToReady s).pstate = .ready := rfl
@[simp] theorem parserToReady_rxidx : (parserToReady s).rxidx = 0 := rfl
@[simp] theorem parserToReady_rxbuf : (parserToReady s).rxbuf = memBelow s.rxbuf 0 := rfl
@[simp] theorem parserToReady_activeMode : (parserToReady s).activeMode = s.activeMode := rfl
@[simp] theorem parserToReady_connected : (parserToReady s).connected = s.connected := rfl
@[simp] theorem parserToReady_ledState : (parserToReady s).ledState = s.ledState := rfl
@[simp] theorem parserToReady_pairing : (parserToReady s).pairing = s.pairing := rfl
@[simp] theorem parserToReady_pairStartTime : (parserToReady s).pairStartTime = s.pairStartTime := rfl
@[simp] theorem parserToReady_sinkInstalled : (parserToReady s).sinkInstalled = s.sinkInstalled := rfl
@[simp] theorem parserToReady_qmem : (parserToReady s).qmem = s.qmem := rfl
@[simp] theorem parserToReady_qhead : (parserToReady s).qhead = s.qhead := rfl
@[simp] theorem parserToReady_qtail : (parserToReady s).qtail = s.qtail := rfl
@[simp] theorem parserToReady_qdepth : (parserToReady s).qdepth = s.qdepth := rfl
@[simp] theorem parserToReady_lastSendTime : (parserToReady s).lastSendTime = s.lastSendTime := rfl
@[simp] theorem parserToReady_lastActivityTime : (parserToReady s).lastActivityTime = s.lastActivityTime := rfl
@[simp] theorem parserToReady_tx : (parserToReady s).tx = s.tx := rfl
@[simp] theorem parserToReady_events : (parserToReady s).events = s.events := rfl
@[simp] theorem parserToReady_results : (parserToReady s).results = s.results := rfl
@[simp] theorem parserToReady_pending : (parserToReady s).pending = s.pending := rfl

/-! ### `raiseReject`: a reject (60_exceptions R214) -/

@[simp] theorem raiseReject_params (c : RejectCause) (b : Byte) : (raiseReject c b s).params = s.params := rfl
@[simp] theorem raiseReject_pstate (c : RejectCause) (b : Byte) : (raiseReject c b s).pstate = .ready := rfl
@[simp] theorem raiseReject_rxidx (c : RejectCause) (b : Byte) : (raiseReject c b s).rxidx = 0 := rfl
@[simp] theorem raiseReject_rxbuf (c : RejectCause) (b : Byte) : (raiseReject c b s).rxbuf = memBelow s.rxbuf 0 := rfl
@[simp] theorem raiseReject_activeMode (c : RejectCause) (b : Byte) : (raiseReject c b s).activeMode = s.activeMode := rfl
@[simp] theorem raiseReject_connected (c : RejectCause) (b : Byte) : (raiseReject c b s).connected = s.connected := rfl
@[simp] theorem raiseReject_ledState (c : RejectCause) (b : Byte) : (raiseReject c b s).ledState = s.ledState := rfl
@[simp] theorem raiseReject_pairing (c : RejectCause) (b : Byte) : (raiseReject c b s).pairing = s.pairing := rfl
@[simp] theorem raiseReject_pairStartTime (c : RejectCause) (b : Byte) : (raiseReject c b s).pairStartTime = s.pairStartTime := rfl
@[simp] theorem raiseReject_sinkInstalled (c : RejectCause) (b : Byte) : (raiseReject c b s).sinkInstalled = s.sinkInstalled := rfl
@[simp] theorem raiseReject_qmem (c : RejectCause) (b : Byte) : (raiseReject c b s).qmem = s.qmem := rfl
@[simp] theorem raiseReject_qhead (c : RejectCause) (b : Byte) : (raiseReject c b s).qhead = s.qhead := rfl
@[simp] theorem raiseReject_qtail (c : RejectCause) (b : Byte) : (raiseReject c b s).qtail = s.qtail := rfl
@[simp] theorem raiseReject_qdepth (c : RejectCause) (b : Byte) : (raiseReject c b s).qdepth = s.qdepth := rfl
@[simp] theorem raiseReject_lastSendTime (c : RejectCause) (b : Byte) : (raiseReject c b s).lastSendTime = s.lastSendTime := rfl
@[simp] theorem raiseReject_lastActivityTime (c : RejectCause) (b : Byte) : (raiseReject c b s).lastActivityTime = s.lastActivityTime := rfl
@[simp] theorem raiseReject_tx (c : RejectCause) (b : Byte) : (raiseReject c b s).tx = s.tx := rfl
@[simp] theorem raiseReject_events (c : RejectCause) (b : Byte) : (raiseReject c b s).events = s.events ++ [.reject c b] := rfl
@[simp] theorem raiseReject_results (c : RejectCause) (b : Byte) : (raiseReject c b s).results = s.results := rfl
@[simp] theorem raiseReject_pending (c : RejectCause) (b : Byte) : (raiseReject c b s).pending = s.pending := rfl

/-! ### `rxStore`: storing a byte of the frame -/

@[simp] theorem rxStore_params (i : Nat) (b : Byte) : (rxStore i b s).params = s.params := rfl
@[simp] theorem rxStore_pstate (i : Nat) (b : Byte) : (rxStore i b s).pstate = s.pstate := rfl
@[simp] theorem rxStore_rxidx (i : Nat) (b : Byte) : (rxStore i b s).rxidx = i + 1 := rfl
@[simp] theorem rxStore_rxbuf (i : Nat) (b : Byte) : (rxStore i b s).rxbuf = memBelow (memWrite s.rxbuf i b) (i + 1) := rfl
@[simp] theorem rxStore_activeMode (i : Nat) (b : Byte) : (rxStore i b s).activeMode = s.activeMode := rfl
@[simp] theorem rxStore_connected (i : Nat) (b : Byte) : (rxStore i b s).connected = s.connected := rfl
@[simp] theorem rxStore_ledState (i : Nat) (b : Byte) : (rxStore i b s).ledState = s.ledState := rfl
@[simp] theorem rxStore_pairing (i : Nat) (b : Byte) : (rxStore i b s).pairing = s.pairing := rfl
@[simp] theorem rxStore_pairStartTime (i : Nat) (b : Byte) : (rxStore i b s).pairStartTime = s.pairStartTime := rfl
@[simp] theorem rxStore_sinkInstalled (i : Nat) (b : Byte) : (rxStore i b s).sinkInstalled = s.sinkInstalled := rfl
@[simp] theorem rxStore_qmem (i : Nat) (b : Byte) : (rxStore i b s).qmem = s.qmem := rfl
@[simp] theorem rxStore_qhead (i : Nat) (b : Byte) : (rxStore i b s).qhead = s.qhead := rfl
@[simp] theorem rxStore_qtail (i : Nat) (b : Byte) : (rxStore i b s).qtail = s.qtail := rfl
@[simp] theorem rxStore_qdepth (i : Nat) (b : Byte) : (rxStore i b s).qdepth = s.qdepth := rfl
@[simp] theorem rxStore_lastSendTime (i : Nat) (b : Byte) : (rxStore i b s).lastSendTime = s.lastSendTime := rfl
@[simp] theorem rxStore_lastActivityTime (i : Nat) (b : Byte) : (rxStore i b s).lastActivityTime = s.lastActivityTime := rfl
@[simp] theorem rxStore_tx (i : Nat) (b : Byte) : (rxStore i b s).tx = s.tx := rfl
@[simp] theorem rxStore_events (i : Nat) (b : Byte) : (rxStore i b s).events = s.events := rfl
@[simp] theorem rxStore_results (i : Nat) (b : Byte) : (rxStore i b s).results = s.results := rfl
@[simp] theorem rxStore_pending (i : Nat) (b : Byte) : (rxStore i b s).pending = s.pending := rfl

/-! ### `enqueue`: PUSH's acting arm (42_queue R141) -/

@[simp] theorem enqueue_params (e : Entry) : (enqueue e s).params = s.params := rfl
@[simp] theorem enqueue_pstate (e : Entry) : (enqueue e s).pstate = s.pstate := rfl
@[simp] theorem enqueue_rxidx (e : Entry) : (enqueue e s).rxidx = s.rxidx := rfl
@[simp] theorem enqueue_rxbuf (e : Entry) : (enqueue e s).rxbuf = s.rxbuf := rfl
@[simp] theorem enqueue_activeMode (e : Entry) : (enqueue e s).activeMode = s.activeMode := rfl
@[simp] theorem enqueue_connected (e : Entry) : (enqueue e s).connected = s.connected := rfl
@[simp] theorem enqueue_ledState (e : Entry) : (enqueue e s).ledState = s.ledState := rfl
@[simp] theorem enqueue_pairing (e : Entry) : (enqueue e s).pairing = s.pairing := rfl
@[simp] theorem enqueue_pairStartTime (e : Entry) : (enqueue e s).pairStartTime = s.pairStartTime := rfl
@[simp] theorem enqueue_sinkInstalled (e : Entry) : (enqueue e s).sinkInstalled = s.sinkInstalled := rfl
@[simp] theorem enqueue_qmem (e : Entry) : (enqueue e s).qmem = memWrite s.qmem s.qtail e := rfl
@[simp] theorem enqueue_qhead (e : Entry) : (enqueue e s).qhead = s.qhead := rfl
@[simp] theorem enqueue_qtail (e : Entry) : (enqueue e s).qtail = (s.qtail + 1) % s.params.queueCap := rfl
@[simp] theorem enqueue_qdepth (e : Entry) : (enqueue e s).qdepth = s.qdepth + 1 := rfl
@[simp] theorem enqueue_lastSendTime (e : Entry) : (enqueue e s).lastSendTime = s.lastSendTime := rfl
@[simp] theorem enqueue_lastActivityTime (e : Entry) : (enqueue e s).lastActivityTime = s.lastActivityTime := rfl
@[simp] theorem enqueue_tx (e : Entry) : (enqueue e s).tx = s.tx := rfl
@[simp] theorem enqueue_events (e : Entry) : (enqueue e s).events = s.events := rfl
@[simp] theorem enqueue_results (e : Entry) : (enqueue e s).results = s.results := rfl
@[simp] theorem enqueue_pending (e : Entry) : (enqueue e s).pending = s.pending := rfl

/-! ### `dequeue`: POP's acting arm (42_queue R143) -/

@[simp] theorem dequeue_params : (dequeue s).params = s.params := rfl
@[simp] theorem dequeue_pstate : (dequeue s).pstate = s.pstate := rfl
@[simp] theorem dequeue_rxidx : (dequeue s).rxidx = s.rxidx := rfl
@[simp] theorem dequeue_rxbuf : (dequeue s).rxbuf = s.rxbuf := rfl
@[simp] theorem dequeue_activeMode : (dequeue s).activeMode = s.activeMode := rfl
@[simp] theorem dequeue_connected : (dequeue s).connected = s.connected := rfl
@[simp] theorem dequeue_ledState : (dequeue s).ledState = s.ledState := rfl
@[simp] theorem dequeue_pairing : (dequeue s).pairing = s.pairing := rfl
@[simp] theorem dequeue_pairStartTime : (dequeue s).pairStartTime = s.pairStartTime := rfl
@[simp] theorem dequeue_sinkInstalled : (dequeue s).sinkInstalled = s.sinkInstalled := rfl
@[simp] theorem dequeue_qmem : (dequeue s).qmem = memErase s.qmem s.qhead := rfl
@[simp] theorem dequeue_qhead : (dequeue s).qhead = (s.qhead + 1) % s.params.queueCap := rfl
@[simp] theorem dequeue_qtail : (dequeue s).qtail = s.qtail := rfl
@[simp] theorem dequeue_qdepth : (dequeue s).qdepth = s.qdepth - 1 := rfl
@[simp] theorem dequeue_lastSendTime : (dequeue s).lastSendTime = s.lastSendTime := rfl
@[simp] theorem dequeue_lastActivityTime : (dequeue s).lastActivityTime = s.lastActivityTime := rfl
@[simp] theorem dequeue_tx : (dequeue s).tx = s.tx := rfl
@[simp] theorem dequeue_events : (dequeue s).events = s.events := rfl
@[simp] theorem dequeue_results : (dequeue s).results = s.results := rfl
@[simp] theorem dequeue_pending : (dequeue s).pending = s.pending := rfl

/-! ### `clearQueue`: QCLEAR (42_queue R145) -/

@[simp] theorem clearQueue_params : (clearQueue s).params = s.params := rfl
@[simp] theorem clearQueue_pstate : (clearQueue s).pstate = s.pstate := rfl
@[simp] theorem clearQueue_rxidx : (clearQueue s).rxidx = s.rxidx := rfl
@[simp] theorem clearQueue_rxbuf : (clearQueue s).rxbuf = s.rxbuf := rfl
@[simp] theorem clearQueue_activeMode : (clearQueue s).activeMode = s.activeMode := rfl
@[simp] theorem clearQueue_connected : (clearQueue s).connected = s.connected := rfl
@[simp] theorem clearQueue_ledState : (clearQueue s).ledState = s.ledState := rfl
@[simp] theorem clearQueue_pairing : (clearQueue s).pairing = s.pairing := rfl
@[simp] theorem clearQueue_pairStartTime : (clearQueue s).pairStartTime = s.pairStartTime := rfl
@[simp] theorem clearQueue_sinkInstalled : (clearQueue s).sinkInstalled = s.sinkInstalled := rfl
@[simp] theorem clearQueue_qmem : (clearQueue s).qmem = [] := rfl
@[simp] theorem clearQueue_qhead : (clearQueue s).qhead = 0 := rfl
@[simp] theorem clearQueue_qtail : (clearQueue s).qtail = 0 := rfl
@[simp] theorem clearQueue_qdepth : (clearQueue s).qdepth = 0 := rfl
@[simp] theorem clearQueue_lastSendTime : (clearQueue s).lastSendTime = s.lastSendTime := rfl
@[simp] theorem clearQueue_lastActivityTime : (clearQueue s).lastActivityTime = s.lastActivityTime := rfl
@[simp] theorem clearQueue_tx : (clearQueue s).tx = s.tx := rfl
@[simp] theorem clearQueue_events : (clearQueue s).events = s.events := rfl
@[simp] theorem clearQueue_results : (clearQueue s).results = s.results := rfl
@[simp] theorem clearQueue_pending : (clearQueue s).pending = s.pending := rfl

/-! ### `applyConnectivity`: CMD 0 (40_parser R109) -/

@[simp] theorem applyConnectivity_params (d : Byte) : (applyConnectivity d s).params = s.params := rfl
@[simp] theorem applyConnectivity_pstate (d : Byte) : (applyConnectivity d s).pstate = s.pstate := rfl
@[simp] theorem applyConnectivity_rxidx (d : Byte) : (applyConnectivity d s).rxidx = s.rxidx := rfl
@[simp] theorem applyConnectivity_rxbuf (d : Byte) : (applyConnectivity d s).rxbuf = s.rxbuf := rfl
@[simp] theorem applyConnectivity_activeMode (d : Byte) : (applyConnectivity d s).activeMode = s.activeMode := rfl
@[simp] theorem applyConnectivity_connected (d : Byte) : (applyConnectivity d s).connected = decide (d = 0#8) := rfl
@[simp] theorem applyConnectivity_ledState (d : Byte) : (applyConnectivity d s).ledState = s.ledState := rfl
@[simp] theorem applyConnectivity_pairing (d : Byte) : (applyConnectivity d s).pairing = false := rfl
@[simp] theorem applyConnectivity_pairStartTime (d : Byte) : (applyConnectivity d s).pairStartTime = s.pairStartTime := rfl
@[simp] theorem applyConnectivity_sinkInstalled (d : Byte) : (applyConnectivity d s).sinkInstalled = s.sinkInstalled := rfl
@[simp] theorem applyConnectivity_qmem (d : Byte) : (applyConnectivity d s).qmem = s.qmem := rfl
@[simp] theorem applyConnectivity_qhead (d : Byte) : (applyConnectivity d s).qhead = s.qhead := rfl
@[simp] theorem applyConnectivity_qtail (d : Byte) : (applyConnectivity d s).qtail = s.qtail := rfl
@[simp] theorem applyConnectivity_qdepth (d : Byte) : (applyConnectivity d s).qdepth = s.qdepth := rfl
@[simp] theorem applyConnectivity_lastSendTime (d : Byte) : (applyConnectivity d s).lastSendTime = s.lastSendTime := rfl
@[simp] theorem applyConnectivity_lastActivityTime (d : Byte) : (applyConnectivity d s).lastActivityTime = s.lastActivityTime := rfl
@[simp] theorem applyConnectivity_tx (d : Byte) : (applyConnectivity d s).tx = s.tx := rfl
@[simp] theorem applyConnectivity_events (d : Byte) : (applyConnectivity d s).events = s.events := rfl
@[simp] theorem applyConnectivity_results (d : Byte) : (applyConnectivity d s).results = s.results := rfl
@[simp] theorem applyConnectivity_pending (d : Byte) : (applyConnectivity d s).pending = s.pending := rfl

/-! ### `applyLeds`: CMD 1 (40_parser R110) -/

@[simp] theorem applyLeds_params (d : Byte) : (applyLeds d s).params = s.params := rfl
@[simp] theorem applyLeds_pstate (d : Byte) : (applyLeds d s).pstate = s.pstate := rfl
@[simp] theorem applyLeds_rxidx (d : Byte) : (applyLeds d s).rxidx = s.rxidx := rfl
@[simp] theorem applyLeds_rxbuf (d : Byte) : (applyLeds d s).rxbuf = s.rxbuf := rfl
@[simp] theorem applyLeds_activeMode (d : Byte) : (applyLeds d s).activeMode = s.activeMode := rfl
@[simp] theorem applyLeds_connected (d : Byte) : (applyLeds d s).connected = s.connected := rfl
@[simp] theorem applyLeds_ledState (d : Byte) : (applyLeds d s).ledState = d := rfl
@[simp] theorem applyLeds_pairing (d : Byte) : (applyLeds d s).pairing = s.pairing := rfl
@[simp] theorem applyLeds_pairStartTime (d : Byte) : (applyLeds d s).pairStartTime = s.pairStartTime := rfl
@[simp] theorem applyLeds_sinkInstalled (d : Byte) : (applyLeds d s).sinkInstalled = s.sinkInstalled := rfl
@[simp] theorem applyLeds_qmem (d : Byte) : (applyLeds d s).qmem = s.qmem := rfl
@[simp] theorem applyLeds_qhead (d : Byte) : (applyLeds d s).qhead = s.qhead := rfl
@[simp] theorem applyLeds_qtail (d : Byte) : (applyLeds d s).qtail = s.qtail := rfl
@[simp] theorem applyLeds_qdepth (d : Byte) : (applyLeds d s).qdepth = s.qdepth := rfl
@[simp] theorem applyLeds_lastSendTime (d : Byte) : (applyLeds d s).lastSendTime = s.lastSendTime := rfl
@[simp] theorem applyLeds_lastActivityTime (d : Byte) : (applyLeds d s).lastActivityTime = s.lastActivityTime := rfl
@[simp] theorem applyLeds_tx (d : Byte) : (applyLeds d s).tx = s.tx := rfl
@[simp] theorem applyLeds_events (d : Byte) : (applyLeds d s).events = s.events := rfl
@[simp] theorem applyLeds_results (d : Byte) : (applyLeds d s).results = s.results := rfl
@[simp] theorem applyLeds_pending (d : Byte) : (applyLeds d s).pending = s.pending := rfl

/-! ### `openSession`: what START and PAIR share -/

@[simp] theorem openSession_params (m : Mode) : (openSession m s).params = s.params := rfl
@[simp] theorem openSession_pstate (m : Mode) : (openSession m s).pstate = s.pstate := rfl
@[simp] theorem openSession_rxidx (m : Mode) : (openSession m s).rxidx = s.rxidx := rfl
@[simp] theorem openSession_rxbuf (m : Mode) : (openSession m s).rxbuf = s.rxbuf := rfl
@[simp] theorem openSession_activeMode (m : Mode) : (openSession m s).activeMode = m := rfl
@[simp] theorem openSession_connected (m : Mode) : (openSession m s).connected = false := rfl
@[simp] theorem openSession_ledState (m : Mode) : (openSession m s).ledState = s.ledState := rfl
@[simp] theorem openSession_pairing (m : Mode) : (openSession m s).pairing = s.pairing := rfl
@[simp] theorem openSession_pairStartTime (m : Mode) : (openSession m s).pairStartTime = s.pairStartTime := rfl
@[simp] theorem openSession_sinkInstalled (m : Mode) : (openSession m s).sinkInstalled = true := rfl
@[simp] theorem openSession_qmem (m : Mode) : (openSession m s).qmem = [] := rfl
@[simp] theorem openSession_qhead (m : Mode) : (openSession m s).qhead = 0 := rfl
@[simp] theorem openSession_qtail (m : Mode) : (openSession m s).qtail = 0 := rfl
@[simp] theorem openSession_qdepth (m : Mode) : (openSession m s).qdepth = 0 := rfl
@[simp] theorem openSession_lastSendTime (m : Mode) : (openSession m s).lastSendTime = s.lastSendTime := rfl
@[simp] theorem openSession_lastActivityTime (m : Mode) : (openSession m s).lastActivityTime = s.lastActivityTime := rfl
@[simp] theorem openSession_tx (m : Mode) : (openSession m s).tx = s.tx := rfl
@[simp] theorem openSession_events (m : Mode) : (openSession m s).events = s.events := rfl
@[simp] theorem openSession_results (m : Mode) : (openSession m s).results = s.results := rfl
@[simp] theorem openSession_pending (m : Mode) : (openSession m s).pending = s.pending := rfl

end Sys2Proof.Machine
end

