-- ==== Sys2Proof/Laws/Queue.lean ====
section
/-! SUPPORT. The ring buffer: what its live entries become under PUSH, POP and QCLEAR, and that each keeps the queue
invariant (spec/42_queue.md R141 to R149). -/

namespace Sys2Proof.Machine

open Sys2Proof.Safety

variable (s : State) (e : Entry)

/-- Two indices of a ring of `n` slots are the same slot only if they are the same index. -/
theorem ring_inj {h n i j : Nat} (hi : i < n) (hj : j < n) (he : (h + i) % n = (h + j) % n) : i = j := by
  have h1 : i ≡ j [MOD n] := Nat.ModEq.add_left_cancel' h he
  rwa [Nat.ModEq, Nat.mod_eq_of_lt hi, Nat.mod_eq_of_lt hj] at h1

@[simp] theorem liveEntries_length : (liveEntries s).length = s.qdepth := by simp [liveEntries]

theorem liveEntries_eq_nil (h : s.qdepth = 0) : liveEntries s = [] := by simp [liveEntries, h]

/-- The queue invariant looks at the parameters and the queue only. -/
theorem queueInv_of_same {s t : State} (h : QueueInv s) (hp : t.params = s.params) (hm : t.qmem = s.qmem)
    (hh : t.qhead = s.qhead) (ht : t.qtail = s.qtail) (hd : t.qdepth = s.qdepth) : QueueInv t where
  depth_le := by rw [hd, hp]; exact h.depth_le
  head_lt := by rw [hh, hp]; exact h.head_lt
  tail_eq := by rw [ht, hh, hd, hp]; exact h.tail_eq
  canonical := by rw [hm]; exact h.canonical
  listed := by intro a; rw [hm, h.listed a]; unfold Live; rw [hd, hh, hp]
  legal := by rw [hm, hp]; exact h.legal

theorem liveEntries_of_same {s t : State} (hp : t.params = s.params) (hm : t.qmem = s.qmem) (hh : t.qhead = s.qhead)
    (hd : t.qdepth = s.qdepth) : liveEntries t = liveEntries s := by
  unfold liveEntries slotAt; rw [hp, hm, hh, hd]

/-! ## PUSH -/

theorem slotAt_enqueue (a : Nat) : slotAt (enqueue e s) a = if a = s.qtail then e else slotAt s a := by
  unfold slotAt
  rw [enqueue_qmem, memRead_memWrite]
  split <;> rfl

variable {s} in
/-- The slot PUSH writes is not a live one. -/
theorem queueInv_tail_not_live (h : QueueInv s) (hd : s.qdepth < s.params.queueCap) {i : Nat} (hi : i < s.qdepth) :
    (s.qhead + i) % s.params.queueCap ≠ s.qtail := by
  rw [h.tail_eq]
  intro he
  have := ring_inj (lt_trans hi hd) hd he
  omega

variable {s} in
/-- R141, R146: a PUSH appends its entry. -/
theorem liveEntries_enqueue (h : QueueInv s) (hd : s.qdepth < s.params.queueCap) :
    liveEntries (enqueue e s) = liveEntries s ++ [e] := by
  unfold liveEntries
  rw [enqueue_qdepth, enqueue_qhead, enqueue_params, List.range_succ, List.map_append]
  congr 1
  · refine List.map_congr_left fun i hi => ?_
    rw [slotAt_enqueue, if_neg (queueInv_tail_not_live h hd (List.mem_range.1 hi))]
  · simp [slotAt_enqueue, h.tail_eq]

variable {s} in
theorem queueInv_enqueue (h : QueueInv s) (hd : s.qdepth < s.params.queueCap)
    (he : pushLenLegal s.params e.type e.data.length = true) : QueueInv (enqueue e s) where
  depth_le := by simp; omega
  head_lt := by simpa using h.head_lt
  tail_eq := by simp [h.tail_eq, Nat.add_assoc]
  canonical := memWf_memWrite _ _ _ h.canonical
  listed := by
    intro a
    rw [enqueue_qmem, memRead_memWrite]
    have key : Live (enqueue e s) a ↔ Live s a ∨ a = s.qtail := by
      unfold Live
      simp only [enqueue_qdepth, enqueue_qhead, enqueue_params]
      constructor
      · rintro ⟨i, hi, rfl⟩
        rcases Nat.lt_succ_iff_lt_or_eq.1 hi with hi | rfl
        · exact .inl ⟨i, hi, rfl⟩
        · exact .inr h.tail_eq.symm
      · rintro (⟨i, hi, rfl⟩ | rfl)
        · exact ⟨i, by omega, rfl⟩
        · exact ⟨s.qdepth, by omega, h.tail_eq⟩
    rw [key, ← h.listed a]
    split <;> simp [*]
  legal := by
    intro c hc
    rcases mem_memWrite _ _ _ hc with rfl | hc
    · exact he
    · exact h.legal c hc

/-! ## POP -/

theorem slotAt_dequeue_other {a : Nat} (h : a ≠ s.qhead) : slotAt (dequeue s) a = slotAt s a := by
  unfold slotAt
  rw [dequeue_qmem, memRead_memErase, if_neg h]

/-- The ring index after the head has moved by one. -/
theorem ring_succ (h i n : Nat) : ((h + 1) % n + i) % n = (h + (i + 1)) % n := by
  rw [Nat.mod_add_mod]; congr 1; omega

variable {s} in
theorem queueInv_head_index (h : QueueInv s) : (s.qhead + 0) % s.params.queueCap = s.qhead :=
  Nat.mod_eq_of_lt h.head_lt

variable {s} in
/-- R143: the oldest entry is the one at `qhead`, and a POP leaves the others. -/
theorem liveEntries_dequeue (h : QueueInv s) (hd : 0 < s.qdepth) :
    liveEntries s = slotAt s s.qhead :: liveEntries (dequeue s) := by
  obtain ⟨n, hn⟩ := Nat.exists_eq_succ_of_ne_zero hd.ne'
  have hcap := h.depth_le
  unfold liveEntries
  rw [dequeue_qdepth, dequeue_qhead, dequeue_params, hn, List.range_succ_eq_map, List.map_cons, queueInv_head_index h,
    List.map_map]
  congr 1
  refine List.map_congr_left fun i hi => ?_
  have hi' : i + 1 < s.params.queueCap := by have := List.mem_range.1 hi; omega
  rw [ring_succ, slotAt_dequeue_other]
  · rfl
  · intro he
    have := ring_inj hi' (by omega : 0 < s.params.queueCap) (he.trans (queueInv_head_index h).symm)
    omega

variable {s} in
theorem queueInv_dequeue (h : QueueInv s) (hd : 0 < s.qdepth) : QueueInv (dequeue s) where
  depth_le := by have := h.depth_le; simp; omega
  head_lt := by simpa using Nat.mod_lt _ (lt_of_le_of_lt (Nat.zero_le _) h.head_lt)
  tail_eq := by
    simp only [dequeue_qtail, dequeue_qhead, dequeue_qdepth, dequeue_params]
    rw [h.tail_eq, ring_succ, Nat.sub_add_cancel hd]
  canonical := memWf_memErase _ _ h.canonical
  listed := by
    intro a
    rw [dequeue_qmem, memRead_memErase]
    have hcap := h.depth_le
    have key : Live (dequeue s) a ↔ Live s a ∧ a ≠ s.qhead := by
      unfold Live
      simp only [dequeue_qdepth, dequeue_qhead, dequeue_params]
      constructor
      · rintro ⟨i, hi, rfl⟩
        rw [ring_succ]
        refine ⟨⟨i + 1, by omega, rfl⟩, fun he => ?_⟩
        have := ring_inj (by omega : i + 1 < s.params.queueCap) (by omega : 0 < s.params.queueCap)
          (he.trans (queueInv_head_index h).symm)
        omega
      · rintro ⟨⟨i, hi, rfl⟩, hne⟩
        cases i with
        | zero => exact absurd (queueInv_head_index h) hne
        | succ i => exact ⟨i, by omega, (ring_succ _ _ _).symm⟩
    rw [key, ← h.listed a]
    split <;> simp [*]
  legal := fun c hc => h.legal c (List.mem_of_mem_filter hc)

/-! ## QCLEAR -/

@[simp] theorem liveEntries_clearQueue : liveEntries (clearQueue s) = [] := rfl

/-- An empty ring with its indices at zero meets the queue invariant. -/
theorem queueInv_empty (hc : 1 ≤ s.params.queueCap) (hm : s.qmem = []) (hh : s.qhead = 0) (ht : s.qtail = 0)
    (hd : s.qdepth = 0) : QueueInv s where
  depth_le := by omega
  head_lt := by omega
  tail_eq := by simp [hh, ht, hd]
  canonical := by rw [hm]; exact memWf_nil
  listed := by intro a; simp [hm, Live, hd]
  legal := by simp [hm]

theorem queueInv_clearQueue (hc : 1 ≤ s.params.queueCap) : QueueInv (clearQueue s) :=
  queueInv_empty _ hc rfl rfl rfl rfl

/-! ## The operations -/

variable (ty : ReportType) (payload : List Byte)

theorem pushReport_bad (h : pushLenLegal s.params ty payload.length = false) :
    pushReport ty payload s = (false, raiseDrop (.badPushLen ty payload.length) s) := by
  simp [pushReport, h]

theorem pushReport_ok (h : pushLenLegal s.params ty payload.length = true) (hd : s.qdepth < s.params.queueCap) :
    pushReport ty payload s = (true, enqueue ⟨ty, payload⟩ s) := by
  simp [pushReport, h, hd]

theorem pushReport_full (h : pushLenLegal s.params ty payload.length = true) (hd : ¬ s.qdepth < s.params.queueCap) :
    pushReport ty payload s = (false, raiseDrop (.queueFull ty) s) := by
  simp [pushReport, h, hd]

/-- Everything a PUSH can do to the state. -/
theorem pushReport_cases :
    (∃ c, pushReport ty payload s = (false, raiseDrop c s)) ∨
    (pushLenLegal s.params ty payload.length = true ∧ s.qdepth < s.params.queueCap ∧
      pushReport ty payload s = (true, enqueue ⟨ty, payload⟩ s)) := by
  by_cases h : pushLenLegal s.params ty payload.length = true
  · by_cases hd : s.qdepth < s.params.queueCap
    · exact .inr ⟨h, hd, pushReport_ok s ty payload h hd⟩
    · exact .inl ⟨_, pushReport_full s ty payload h hd⟩
  · exact .inl ⟨_, pushReport_bad s ty payload (by simpa using h)⟩

/-- The lengths PUSH accepts, in words (R142(b)). -/
theorem pushLenLegal_iff (p : Params) (n : Nat) :
    pushLenLegal p ty n = true ↔ 1 ≤ n ∧ n ≤ p.payloadCap ∧ (ty = .keyboard → n = 8) := by
  have h : pushLenLegal p ty n =
      (decide (1 ≤ n) && decide (n ≤ p.payloadCap) && (decide (ty ≠ .keyboard) || decide (n = 8))) := rfl
  rw [h]
  simp only [Bool.and_eq_true, Bool.or_eq_true, decide_eq_true_eq, and_assoc, ne_eq]
  tauto

variable {s} in
theorem queueInv_pushReport (h : QueueInv s) : QueueInv (pushReport ty payload s).2 := by
  rcases pushReport_cases s ty payload with ⟨c, hc⟩ | ⟨hl, hd, hc⟩
  · rw [hc]; exact queueInv_of_same h rfl rfl rfl rfl rfl
  · rw [hc]; exact queueInv_enqueue _ h hd hl

variable {s} in
theorem queueInv_popReport (h : QueueInv s) : QueueInv (popReport s).2 := by
  unfold popReport
  split
  · exact h
  next hd => exact queueInv_dequeue h (Nat.pos_of_ne_zero hd)

end Sys2Proof.Machine
end

