-- ==== Sys2Proof/Laws/Link.lean ====
section
/-! SUPPORT. What the scheduler and the link operations do, each as one equation over the state they begin in, and what
the timer and link invariants look at. -/

namespace Sys2Proof.Machine

open Sys2Proof.Safety

variable (s : State) (t : Nat) (m : Mode)

/-! ## Modes -/

/-- Every mode but USB is a profile under its own number. -/
@[simp] theorem profileOf_code (h : m ≠ .usb) : profileOf m.code = some m := by
  cases m <;> first | exact absurd rfl h | rfl

theorem code_of_profileOf {m : Byte} {mode : Mode} (h : profileOf m = some mode) : m = mode.code ∧ mode ≠ .usb := by
  unfold profileOf at h
  split_ifs at h with h1 h2 h3 h4 <;> cases h <;> exact ⟨by assumption, by decide⟩

/-- A byte that names a profile is one of the four (44_link_ops R177). -/
theorem profileOf_isSome (m : Byte) : (profileOf m).isSome = true ↔ 1 ≤ m.toNat ∧ m.toNat ≤ 4 := by
  revert m; decide

theorem profileOf_eq_none (m : Byte) : profileOf m = none ↔ m = 0 ∨ 5 ≤ m.toNat := by
  revert m; decide

/-! ## Thresholds -/

/-- The rate limit in words (43_scheduler R158, R162). -/
theorem rateLimited_iff :
    rateLimited s t = true ↔ elapsed s.params t s.lastSendTime < if s.activeMode = .dongle then 2 else 8 :=
  decide_eq_true_iff

theorem rateLimited_eq_false :
    rateLimited s t = false ↔ (if s.activeMode = .dongle then 2 else 8) ≤ elapsed s.params t s.lastSendTime := by
  rw [← Bool.not_eq_true, rateLimited_iff, not_lt]

/-- The wake condition in words (R159). -/
theorem wakeDue_iff : wakeDue s t = true ↔ 10000 < elapsed s.params t s.lastActivityTime := decide_eq_true_iff

theorem wakeDue_eq_false : wakeDue s t = false ↔ elapsed s.params t s.lastActivityTime ≤ 10000 := by
  rw [← Bool.not_eq_true, wakeDue_iff, not_lt]

/-- The end of the pairing window in words (44_link_ops R190). -/
theorem pairWindowOver_iff : pairWindowOver s t = true ↔ 60000 < elapsed s.params t s.pairStartTime :=
  decide_eq_true_iff

theorem pairWindowOver_eq_false : pairWindowOver s t = false ↔ elapsed s.params t s.pairStartTime ≤ 60000 := by
  rw [← Bool.not_eq_true, pairWindowOver_iff, not_lt]

/-! ## The scheduler -/

/-- The instant the scheduler's frame is written: after the wake delay if a burst was due (log 26). -/
def sendTime : Nat := if wakeDue s t then afterWake s.params t else stamp s.params t

/-- What the scheduler writes before its frame. -/
def sendBurst : List (Nat × Byte) := if wakeDue s t then List.replicate wakeBurstLen (stamp s.params t, 0) else []

theorem map_replicate_burst (n : Nat) :
    (wakeBurstBytes.map fun b => (n, b)) = List.replicate wakeBurstLen (n, (0 : Byte)) := by
  simp [wakeBurstBytes]

/-- The sending arm (43_scheduler R159) over a queue that holds an entry. -/
theorem sendHead_eq (h : s.qdepth ≠ 0) :
    sendHead t s =
      { s with
        qmem := memErase s.qmem s.qhead
        qhead := (s.qhead + 1) % s.params.queueCap
        qdepth := s.qdepth - 1
        tx := s.tx ++ sendBurst s t ++ (encodeReport (slotAt s s.qhead)).map fun b => (sendTime s t, b)
        lastSendTime := sendTime s t
        lastActivityTime := sendTime s t } := by
  unfold sendHead sendBurst sendTime popReport
  split <;>
    simp [h, frameWrite, wakeBurst, wireWrite, dequeue, slotAt, stamp_afterWake, map_replicate_burst]

/-- Everything SCHED can do (R156): nothing, or the sending arm with a queue that holds an entry and the interval past. -/
theorem sched_cases :
    sched t s = s ∨ (s.qdepth ≠ 0 ∧ rateLimited s t = false ∧ sched t s = sendHead t s) := by
  unfold sched
  by_cases h : s.qdepth = 0
  · simp [h]
  · cases hr : rateLimited s t <;> simp [h]

/-- `u` differs from `s` at most in the wire, the timers and the queue's head. -/
def SameButSend (s u : State) : Prop :=
  u = { s with
        tx := u.tx
        lastSendTime := u.lastSendTime
        lastActivityTime := u.lastActivityTime
        qmem := u.qmem
        qhead := u.qhead
        qdepth := u.qdepth }

theorem sched_same : SameButSend s (sched t s) := by
  rcases sched_cases s t with h | ⟨hd, -, h⟩
  · rw [h]; rfl
  · rw [h, sendHead_eq s t hd]; rfl

theorem sched_tx : s.tx <+: (sched t s).tx := by
  rcases sched_cases s t with h | ⟨hd, -, h⟩
  · rw [h]
  · rw [h, sendHead_eq s t hd]
    simp only [List.append_assoc]
    exact List.prefix_append _ _

theorem sendTime_lt : sendTime s t < 2 ^ s.params.timeW := by
  unfold sendTime; split <;> exact stamp_lt _ _

theorem queueInv_sched {s : State} (h : QueueInv s) (t : Nat) : QueueInv (sched t s) := by
  rcases sched_cases s t with hs | ⟨hd, -, hs⟩
  · rw [hs]; exact h
  · rw [hs, sendHead_eq s t hd]
    exact queueInv_of_same (queueInv_dequeue h (Nat.pos_of_ne_zero hd)) rfl rfl rfl rfl rfl

/-- PAIRTMO touches `pairing` alone. -/
theorem pairTimeout_eq : pairTimeout t s = { s with pairing := s.pairing && !pairWindowOver s t } := by
  unfold pairTimeout
  cases hp : s.pairing <;> cases hw : pairWindowOver s t <;> simp [← hp]

/-! ## Link operations -/

/-- START's acting arm (44_link_ops R179, R180). -/
theorem startProfile_eq :
    startProfile m t s =
      { s with
        sinkInstalled := true
        connected := false
        pairing := false
        activeMode := m
        qmem := []
        qhead := 0
        qtail := 0
        qdepth := 0
        tx := s.tx ++ List.replicate wakeBurstLen (stamp s.params t, 0) ++
          ((encodeStart s.params m.code).map fun b => (afterWake s.params t, b)) ++
          (encodeStart s.params m.code).map fun b => (stamp s.params (afterWake s.params t + s.params.retxDelayMs), b)
        lastSendTime := stamp s.params (afterWake s.params t + s.params.retxDelayMs)
        lastActivityTime := stamp s.params (afterWake s.params t + s.params.retxDelayMs) } := by
  simp [startProfile, openSession, clearQueue, frameWrite, wakeBurst, wireWrite, map_replicate_burst, stamp_afterWake]

/-- PAIR's acting arm (44_link_ops R184, R185). -/
theorem pairProfile_eq :
    pairProfile m t s =
      { s with
        sinkInstalled := true
        connected := false
        pairing := true
        pairStartTime := stamp s.params t
        activeMode := m
        qmem := []
        qhead := 0
        qtail := 0
        qdepth := 0
        tx := s.tx ++ List.replicate wakeBurstLen (stamp s.params t, 0) ++
          ((encodePair m.code).map fun b => (afterWake s.params t, b)) ++
          (encodePair m.code).map fun b => (stamp s.params (afterWake s.params t + s.params.pairGapMs), b)
        lastSendTime := stamp s.params (afterWake s.params t + s.params.pairGapMs)
        lastActivityTime := stamp s.params (afterWake s.params t + s.params.pairGapMs) } := by
  simp [pairProfile, openSession, clearQueue, frameWrite, wakeBurst, wireWrite, map_replicate_burst, stamp_afterWake]

/-- STOP's acting arm (44_link_ops R188). -/
theorem stopLink_eq :
    stopLink t s =
      { s with
        sinkInstalled := false
        connected := false
        pairing := false
        activeMode := .usb
        qmem := []
        qhead := 0
        qtail := 0
        qdepth := 0
        tx := s.tx ++ List.replicate wakeBurstLen (stamp s.params t, 0) ++
          encodeStop.map fun b => (afterWake s.params t, b)
        lastSendTime := afterWake s.params t
        lastActivityTime := afterWake s.params t } := by
  simp [stopLink, clearQueue, frameWrite, wakeBurst, wireWrite, map_replicate_burst, stamp_afterWake]

/-- Everything START can do: nothing, or its acting arm for a profile other than the active one. -/
theorem start_cases (m : Byte) : start m t s = s ∨ ∃ mode, profileOf m = some mode ∧ mode ≠ s.activeMode ∧
    start m t s = startProfile mode t s := by
  unfold start
  cases h : profileOf m with
  | none => exact .inl rfl
  | some mode =>
    simp only
    split
    · exact .inl rfl
    next hm => exact .inr ⟨mode, rfl, hm, rfl⟩

/-- Everything PAIR can do. -/
theorem pair_cases (m : Byte) : pair m t s = s ∨ ∃ mode, profileOf m = some mode ∧ pair m t s = pairProfile mode t s := by
  unfold pair
  cases h : profileOf m with
  | none => exact .inl rfl
  | some mode => exact .inr ⟨mode, rfl, rfl⟩

/-- Everything STOP can do. -/
theorem stop_cases : stop t s = s ∨ (s.activeMode ≠ .usb ∧ stop t s = stopLink t s) := by
  unfold stop
  split
  · exact .inl rfl
  next h => exact .inr ⟨h, rfl⟩

/-! ## Submissions -/

/-- Everything a SUBMIT can do: an event, or an entry appended. -/
theorem submit_cases (ty : ReportType) (payload : List Byte) :
    (∃ c, submit ty payload s = raiseDrop c s) ∨
    (s.connected = true ∧ pushLenLegal s.params ty payload.length = true ∧ s.qdepth < s.params.queueCap ∧
      submit ty payload s = enqueue ⟨ty, payload⟩ s) := by
  unfold submit
  split
  next hc =>
    rcases pushReport_cases s ty payload with ⟨c, h⟩ | ⟨h1, h2, h⟩
    · rw [h]; exact .inl ⟨c, rfl⟩
    · rw [h]; exact .inr ⟨hc, h1, h2, rfl⟩
  · exact .inl ⟨_, rfl⟩

/-! ## The invariants -/

theorem timerInv_of_same {s t : State} (h : TimerInv s) (hp : t.params = s.params)
    (h1 : t.lastSendTime = s.lastSendTime) (h2 : t.lastActivityTime = s.lastActivityTime)
    (h3 : t.pairStartTime = s.pairStartTime) (h4 : t.tx = s.tx) : TimerInv t where
  same := by rw [h1, h2, h.same]
  send_lt := by rw [h1, hp]; exact h.send_lt
  pair_lt := by rw [h3, hp]; exact h.pair_lt
  tx_lt := by rw [h4, hp]; exact h.tx_lt

theorem linkInv_of_same {s t : State} (h : LinkInv s) (h1 : t.sinkInstalled = s.sinkInstalled)
    (h2 : t.activeMode = s.activeMode) (h3 : t.pairing = true → s.pairing = true) : LinkInv t where
  sink := by rw [h1, h2]; exact h.sink
  pairing_wireless := fun hp => by rw [h2]; exact h.pairing_wireless (h3 hp)

/-- Bytes stamped at one instant of `TIME_W` bits. -/
theorem stamped_lt {n k : Nat} (h : n < 2 ^ k) {f : List Byte} : ∀ c ∈ f.map (fun b => (n, b)), c.1 < 2 ^ k := by
  intro c hc
  obtain ⟨b, -, rfl⟩ := List.mem_map.1 hc
  exact h

theorem replicate_lt {n k j : Nat} (h : n < 2 ^ k) : ∀ c ∈ List.replicate j (n, (0 : Byte)), c.1 < 2 ^ k := by
  intro c hc
  rw [List.eq_of_mem_replicate hc]
  exact h

end Sys2Proof.Machine
end

