-- ==== Sys2Proof/Laws/Parser.lean ====
section
/-! SUPPORT. The frame parser: what RXBUF reads as after a byte is stored, what each arm of RXBYTE does, that each
byte-class row does what RXBYTE does with its byte, what a received byte leaves alone, and that it keeps the parser
invariant. -/

namespace Sys2Proof.Machine

open Sys2Proof.Safety

variable (s : State) (b : Byte)

/-! ## RXBUF -/

theorem rxAt_rxStore (i j : Nat) :
    rxAt (rxStore i b s) j = if j = i then b else if j < i then rxAt s j else Config.freeByte j := by
  unfold rxAt
  rw [rxbuf_rxStore', memRead_memBelow, memRead_memWrite]
  rcases lt_trichotomy j i with h | h | h
  · simp [h, h.ne, Nat.lt_succ_of_lt h]
  · simp [h]
  · simp [h.ne', not_lt.2 h.le, show ¬ j < i + 1 by omega]
where
  rxbuf_rxStore' : (rxStore i b s).rxbuf = memBelow (memWrite s.rxbuf i b) (i + 1) := rfl

@[simp] theorem rxAt_rxStore_same (i : Nat) : rxAt (rxStore i b s) i = b := by simp [rxAt_rxStore]

theorem rxAt_rxStore_below {i j : Nat} (h : j < i) : rxAt (rxStore i b s) j = rxAt s j := by
  simp [rxAt_rxStore, h, h.ne]

/-- Storing a byte, and moving the index, keep RXBUF's canonical form. -/
theorem memWf_rxStore (i : Nat) (h : memWf s.rxbuf) : memWf (rxStore i b s).rxbuf :=
  memWf_memBelow _ _ (memWf_memWrite _ _ _ h)

theorem memWf_setRxidx (n : Nat) (h : memWf s.rxbuf) : memWf (setRxidx n s).rxbuf := memWf_memBelow _ _ h

/-- Both memories are in canonical form after reset: nothing is listed. -/
theorem memWf_reset : memWf State.reset.rxbuf ∧ memWf State.reset.qmem := ⟨memWf_nil, memWf_nil⟩

theorem rxAt_setPState (st : PState) (i : Nat) : rxAt (setPState st s) i = rxAt s i := rfl

theorem rxBytes_succ (n : Nat) : rxBytes s (n + 1) = rxBytes s n ++ [rxAt s n] := by
  simp [rxBytes, List.range_succ]

@[simp] theorem rxBytes_length (n : Nat) : (rxBytes s n).length = n := by simp [rxBytes]

/-- The bytes of the frame after one more is stored at the next index. -/
theorem rxBytes_rxStore (i : Nat) : rxBytes (rxStore i b s) (i + 1) = rxBytes s i ++ [b] := by
  rw [rxBytes_succ, rxAt_rxStore_same]
  congr 1
  unfold rxBytes
  exact List.map_congr_left fun j hj => rxAt_rxStore_below s b (List.mem_range.1 hj)

/-- Storing the next byte of a frame whose bytes are exactly those below `rxidx`. -/
theorem rxStore_listed {i : Nat} (h : s.rxbuf.map Prod.fst = List.range i) :
    (rxStore i b s).rxbuf = s.rxbuf ++ [(i, b)] := by
  have hall : ∀ c ∈ s.rxbuf, c.1 < i := fun c hc => List.mem_range.1 (h ▸ List.mem_map_of_mem hc)
  rw [rxbuf_rxStore'', memWrite_append _ _ _ h, memBelow_eq_self]
  intro c hc
  rcases List.mem_append.1 hc with hc | hc
  · exact Nat.lt_succ_of_lt (hall c hc)
  · simp at hc; simp [hc]
where
  rxbuf_rxStore'' : (rxStore i b s).rxbuf = memBelow (memWrite s.rxbuf i b) (i + 1) := rfl

/-! ## Completed frames -/

/-- What a completed frame can change: the three status registers and the event log (R106). -/
theorem frameDone_frame (f : List Byte) :
    frameDone f s =
      { s with
        connected := (frameDone f s).connected
        ledState := (frameDone f s).ledState
        pairing := (frameDone f s).pairing
        events := (frameDone f s).events } := by
  unfold frameDone interpretStatus
  split
  · split
    · split
      · rfl
      · split
        · rfl
        · split <;> rfl
    · rfl
  · rfl

/-- A completed frame never sets `pairing`. -/
theorem frameDone_pairing (f : List Byte) (h : (frameDone f s).pairing = true) : s.pairing = true := by
  unfold frameDone interpretStatus at h
  split at h
  · split at h
    · split at h
      · exact h
      · split at h
        · simp [applyConnectivity] at h
        · split at h <;> exact h
    · exact h
  · exact h

/-- The event log grows. -/
theorem frameDone_events (f : List Byte) : s.events <+: (frameDone f s).events := by
  have h1 : s.events <+: (emit (.frameDone f) s).events := List.prefix_append _ _
  have h2 : ∀ c, s.events <+: (raiseDrop c (emit (.frameDone f) s)).events := fun c =>
    h1.trans (List.prefix_append _ _)
  unfold frameDone interpretStatus
  split
  · split_ifs
    · exact h2 _
    · exact h1
    · exact h1
    · exact h2 _
    · exact h1
  · exact h1

theorem interpretStatus_of_parser (f : List Byte) (cmd wm d : Byte) (st : PState) (n : Nat) (m : List Host.Cell) :
    interpretStatus f cmd wm d { s with pstate := st, rxidx := n, rxbuf := m } =
      { interpretStatus f cmd wm d s with pstate := st, rxidx := n, rxbuf := m } := by
  by_cases h1 : wm = s.activeMode.code
  · by_cases h2 : cmd = 0#8
    · simp [interpretStatus, h1, h2, applyConnectivity]
    · by_cases h3 : cmd = 1#8
      · simp [interpretStatus, h1, h3, applyLeds]
      · simp [interpretStatus, h1, h2, h3, raiseDrop, emit]
  · simp [interpretStatus, h1, raiseDrop, emit]

/-- A completed frame looks at the active mode and at nothing else of the state it does not change. -/
theorem frameDone_of_parser (f : List Byte) (st : PState) (n : Nat) (m : List Host.Cell) :
    frameDone f { s with pstate := st, rxidx := n, rxbuf := m } =
      { frameDone f s with pstate := st, rxidx := n, rxbuf := m } := by
  unfold frameDone
  split
  next len cmd wm d =>
    by_cases h : len.toNat = statusLen
    · rw [if_pos h, if_pos h]
      exact interpretStatus_of_parser (emit _ s) _ cmd wm d st n m
    · rw [if_neg h, if_neg h]; rfl
  · rfl

/-! ## The rows -/

theorem execRxbReadySync_eq : execRxbReadySync s = .next (rxByte syncByte s) := by
  unfold execRxbReadySync
  split
  next h => simp [rxByte, h]
  · rfl

theorem execRxbReadyNoise_eq : execRxbReadyNoise b s = .next (rxByte b s) := by
  unfold execRxbReadyNoise
  split
  next h => simp only [rxByte, h.1, if_neg h.2]
  · rfl

theorem execRxbSyncSync_eq : execRxbSyncSync s = .next (rxByte syncByte s) := by
  unfold execRxbSyncSync
  split
  next h => simp [rxByte, h]
  · rfl

theorem lenByteBad_iff (p : Params) :
    lenByteBad p b = true ↔ b.toNat < minFrameLen ∨ b.toNat > p.maxFrameLen ∨ b.toNat + 2 > p.rxBufCap := by
  simp [lenByteBad, or_assoc]

theorem execRxbSyncLenBad_eq : execRxbSyncLenBad b s = .next (rxByte b s) := by
  unfold execRxbSyncLenBad
  split
  next h =>
    obtain ⟨hs, hb, hl⟩ := h
    rw [lenByteBad_iff] at hl
    simp only [rxByte, hs, hb, if_false]
    split
    · rfl
    · split
      · rfl
      · rw [if_pos (by tauto)]
  · rfl

theorem execRxbSyncLenOk_eq : execRxbSyncLenOk b s = .next (rxByte b s) := by
  unfold execRxbSyncLenOk
  split
  next h =>
    obtain ⟨hs, hb, hl⟩ := h
    have hl' := mt (lenByteBad_iff b s.params).2 (by simp [hl])
    simp only [not_or] at hl'
    simp only [rxByte, hs, hb, hl', if_false]
  · rfl

theorem execRxbLenCmdBad_eq : execRxbLenCmdBad b s = .next (rxByte b s) := by
  unfold execRxbLenCmdBad
  split
  next h => simp only [rxByte, h.1, if_pos h.2]
  · rfl

theorem execRxbLenCmdOk_eq : execRxbLenCmdOk b s = .next (rxByte b s) := by
  unfold execRxbLenCmdOk
  split
  next h => simp only [rxByte, h.1, if_neg (not_lt.2 h.2)]
  · rfl

theorem execRxbCmdWmBad_eq : execRxbCmdWmBad b s = .next (rxByte b s) := by
  unfold execRxbCmdWmBad
  split
  next h => simp only [rxByte, h.1, if_pos h.2]
  · rfl

theorem execRxbCmdWmOk_eq : execRxbCmdWmOk b s = .next (rxByte b s) := by
  unfold execRxbCmdWmOk
  split
  next h => simp only [rxByte, h.1, if_neg (not_lt.2 h.2)]
  · rfl

theorem execRxbPayOvf_eq : execRxbPayOvf b s = .next (rxByte b s) := by
  unfold execRxbPayOvf
  split
  next h => simp only [rxByte, h.1, if_pos h.2]
  · rfl

theorem execRxbPayData_eq : execRxbPayData b s = .next (rxByte b s) := by
  unfold execRxbPayData
  split
  next h => simp only [rxByte, h.1, if_neg (not_le.2 h.2)]
  · rfl

/-! ## The local reset -/

theorem parserToReady_eq : parserToReady s = { s with pstate := .ready, rxidx := 0, rxbuf := [] } := by
  simp [parserToReady, setPState, setRxidx]

theorem raiseReject_eq (c : RejectCause) :
    raiseReject c b s = { s with pstate := .ready, rxidx := 0, rxbuf := [], events := s.events ++ [.reject c b] } := by
  rw [raiseReject, parserToReady_eq]; rfl

/-! ## What a received byte leaves alone -/

/-- `t` differs from `s` at most in the parser, the status registers and the event log. -/
def SameButReceive (s t : State) : Prop :=
  t = { s with
        pstate := t.pstate
        rxidx := t.rxidx
        rxbuf := t.rxbuf
        connected := t.connected
        ledState := t.ledState
        pairing := t.pairing
        events := t.events }

theorem SameButReceive.refl : SameButReceive s s := rfl

theorem SameButReceive.trans {s t u : State} (h : SameButReceive s t) (k : SameButReceive t u) :
    SameButReceive s u := by
  unfold SameButReceive at *
  rw [k, h]

theorem checkComplete_same : SameButReceive s (checkComplete s) := by
  unfold checkComplete
  simp only
  split
  · unfold SameButReceive parserToReady setPState setRxidx
    rw [frameDone_frame]
  · rfl

theorem rxByte_same : SameButReceive s (rxByte b s) := by
  unfold rxByte
  split
  · split <;> rfl
  · split
    · rfl
    · split
      · rfl
      · split
        · rfl
        · split <;> rfl
  · split <;> rfl
  · split
    · rfl
    · exact SameButReceive.trans (t := setPState .awaitingPayload (rxStore 3 b s)) rfl (checkComplete_same _)
  · split
    · rfl
    · exact SameButReceive.trans (t := rxStore s.rxidx b s) rfl (checkComplete_same _)

theorem rxBytesIn_same (bytes : List Byte) : SameButReceive s (rxBytesIn bytes s) := by
  induction bytes generalizing s with
  | nil => rfl
  | cons b bs ih => exact SameButReceive.trans (rxByte_same s b) (ih (rxByte b s))

theorem rxBytesIn_cons (bs : List Byte) : rxBytesIn (b :: bs) s = rxBytesIn bs (rxByte b s) := rfl

/-! ## The parser invariant -/

theorem parserInv_ready (h : s.pstate = .ready) (h0 : s.rxidx = 0) (hb : s.rxbuf = []) : ParserInv s where
  listed := by simp [h0, hb]
  bounded := by simp [h0]
  phase := by simp [ParserPhase, h, h0]

theorem parserInv_parserToReady : ParserInv (parserToReady s) :=
  parserInv_ready _ rfl rfl (by simp)

/-- A frame's length as LenStored has it. -/
theorem frameLenLegal_iff (p : Params) (n : Nat) :
    frameLenLegal p n = true ↔ 2 ≤ n ∧ n ≤ p.maxFrameLen ∧ n + 2 ≤ p.rxBufCap ∧ n ≠ 85 := by
  have h : frameLenLegal p n =
      (decide (2 ≤ n) && decide (n ≤ p.maxFrameLen) && decide (n + 2 ≤ p.rxBufCap) && decide (n ≠ 85)) := rfl
  simp [h, and_assoc]

theorem checkComplete_parserInv (hst : s.pstate = .awaitingPayload) (hl : s.rxbuf.map Prod.fst = List.range s.rxidx)
    (h4 : 4 ≤ s.rxidx) (hle : s.rxidx ≤ (rxAt s 1).toNat + 2) (hc : CmdStored s)
    (hw : (rxAt s 3).toNat ≤ s.params.workmodeMax) : ParserInv (checkComplete s) := by
  unfold checkComplete
  simp only
  split
  · exact parserInv_parserToReady _
  next hne =>
    have hlen := (frameLenLegal_iff _ _).1 hc.1.2
    exact ⟨hl, by omega, by simpa [ParserPhase, hst] using ⟨h4, by omega, hc, hw⟩⟩

/-- Storing the byte at `rxidx` keeps the listing. -/
theorem rxStore_keeps_listing (h : s.rxbuf.map Prod.fst = List.range s.rxidx) :
    (rxStore s.rxidx b s).rxbuf.map Prod.fst = List.range (s.rxidx + 1) := by
  rw [rxStore_listed s b h, List.map_append, h, List.range_succ]; rfl

/-- R15 and R115: a received byte keeps the parser invariant. -/
theorem rxByte_parserInv (hp : s.params.Legal) (h : ParserInv s) : ParserInv (rxByte b s) := by
  have hcap := hp.rxBufCap_min
  obtain ⟨hl, hbnd, hph⟩ := h
  unfold rxByte
  unfold ParserPhase at hph
  split
  next hs =>
    rw [hs] at hph
    split
    · have hx : s.rxbuf = [] := by simpa [hph] using hl
      refine ⟨?_, ?_, ?_⟩
      · simp [rxStart, hx, memWrite, memBelow]
      · simp [rxStart]; omega
      · simp [ParserPhase, rxStart, rxAt_setPState]
    next => exact ⟨hl, hbnd, by simpa [ParserPhase, hs] using hph⟩
  next hs =>
    rw [hs] at hph
    obtain ⟨h1, h0⟩ := hph
    split
    · exact ⟨hl, hbnd, by simpa [ParserPhase, hs] using ⟨h1, h0⟩⟩
    next hb =>
      split
      · exact parserInv_parserToReady _
      next hlo =>
        split
        · exact parserInv_parserToReady _
        next hhi =>
          split
          · exact parserInv_parserToReady _
          next hfit =>
            have hlist := rxStore_keeps_listing s b hl
            rw [h1] at hlist
            have hb' : b.toNat ≠ 85 := fun h => hb (BitVec.eq_of_toNat_eq h)
            refine ⟨hlist, by simp [rxLenOk]; omega, ?_⟩
            refine ⟨rfl, ?_, ?_⟩
            · rw [rxLenOk, rxAt_setPState, rxAt_rxStore_below _ _ (by omega), h0]
            · rw [rxLenOk, rxAt_setPState, rxAt_rxStore_same, frameLenLegal_iff]
              simp only [minFrameLen, not_lt] at hlo hhi hfit
              exact ⟨hlo, hhi, hfit, hb'⟩
  next hs =>
    rw [hs] at hph
    obtain ⟨h2, h0, h1⟩ := hph
    split
    · exact parserInv_parserToReady _
    next hc =>
      have hlist := rxStore_keeps_listing s b hl
      rw [h2] at hlist
      refine ⟨hlist, by simp [rxCmdOk]; omega, ?_⟩
      refine ⟨rfl, ⟨?_, ?_⟩, ?_⟩
      · rw [rxCmdOk, rxAt_setPState, rxAt_rxStore_below _ _ (by omega), h0]
      · rw [rxCmdOk, rxAt_setPState, rxAt_rxStore_below _ _ (by omega)]; exact h1
      · rw [rxCmdOk, rxAt_setPState, rxAt_rxStore_same]; exact not_lt.1 hc
  next hs =>
    rw [hs] at hph
    obtain ⟨h3, ⟨h0, h1⟩, h2⟩ := hph
    split
    · exact parserInv_parserToReady _
    next hw =>
      have hlist := rxStore_keeps_listing s b hl
      rw [h3] at hlist
      have hlen := (frameLenLegal_iff _ _).1 h1
      refine checkComplete_parserInv _ rfl hlist (le_refl 4) ?_ ⟨⟨?_, ?_⟩, ?_⟩ ?_
      · rw [rxAt_setPState, rxAt_rxStore_below _ _ (by omega)]
        change 4 ≤ _; omega
      · rw [rxAt_setPState, rxAt_rxStore_below _ _ (by omega), h0]
      · rw [rxAt_setPState, rxAt_rxStore_below _ _ (by omega)]; exact h1
      · rw [rxAt_setPState, rxAt_rxStore_below _ _ (by omega)]; exact h2
      · rw [rxAt_setPState, rxAt_rxStore_same]; exact not_lt.1 hw
  next hs =>
    rw [hs] at hph
    obtain ⟨h4, hlt, ⟨⟨h0, h1⟩, h2⟩, h3⟩ := hph
    split
    · exact parserInv_parserToReady _
    · refine checkComplete_parserInv _ (by simpa using hs) (rxStore_keeps_listing s b hl) ?_ ?_ ⟨⟨?_, ?_⟩, ?_⟩ ?_
      · simp; omega
      · rw [rxAt_rxStore_below _ _ (by omega)]; simp; omega
      · rw [rxAt_rxStore_below _ _ (by omega), h0]
      · rw [rxAt_rxStore_below _ _ (by omega)]; exact h1
      · rw [rxAt_rxStore_below _ _ (by omega)]; exact h2
      · rw [rxAt_rxStore_below _ _ (by omega)]; exact h3

/-! ## Runs of received bytes -/

/-- RXBYTE one after another is the receive drain. -/
theorem execAll_rxbyte (bytes : List Byte) : execAll (bytes.map .rxbyte) s = .next (rxBytesIn bytes s) := by
  induction bytes generalizing s with
  | nil => rfl
  | cons b bs ih => exact ih (rxByte b s)

theorem SameButReceive.params_eq {s t : State} (h : SameButReceive s t) : t.params = s.params := by rw [h]

theorem rxBytesIn_parserInv (bytes : List Byte) (hp : s.params.Legal) (h : ParserInv s) :
    ParserInv (rxBytesIn bytes s) := by
  induction bytes generalizing s with
  | nil => exact h
  | cons b bs ih =>
    exact ih (rxByte b s) ((rxByte_same s b).params_eq ▸ hp) (rxByte_parserInv s b hp h)

/-- The parser invariant looks at the parameters and the parser only. -/
theorem parserInv_of_same {s t : State} (h : ParserInv s) (hp : t.params = s.params) (hs : t.pstate = s.pstate)
    (hi : t.rxidx = s.rxidx) (hb : t.rxbuf = s.rxbuf) : ParserInv t where
  listed := by rw [hb, hi]; exact h.listed
  bounded := by rw [hi, hp]; exact h.bounded
  phase := by
    have hat : ∀ i, rxAt t i = rxAt s i := fun i => by unfold rxAt; rw [hb]
    have := h.phase
    unfold ParserPhase CmdStored LenStored at this ⊢
    rw [hs, hi, hp, hat, hat, hat, hat]
    exact this

/-- The event log grows under a received byte. -/
theorem rxByte_events : s.events <+: (rxByte b s).events := by
  have hcc : ∀ t : State, t.events = s.events → s.events <+: (checkComplete t).events := by
    intro t ht
    unfold checkComplete
    simp only
    split
    · rw [parserToReady_eq, ← ht]; exact frameDone_events _ _
    · rw [ht]
  have hrej : ∀ c, s.events <+: (raiseReject c b s).events := fun c => by
    rw [raiseReject_eq]; exact List.prefix_append _ _
  unfold rxByte
  split
  · split
    · exact List.prefix_rfl
    · exact List.prefix_append _ _
  · split_ifs
    · exact List.prefix_rfl
    · exact hrej _
    · exact hrej _
    · exact hrej _
    · exact List.prefix_rfl
  · split_ifs
    · exact hrej _
    · exact List.prefix_rfl
  · split_ifs
    · exact hrej _
    · exact hcc _ rfl
  · split_ifs
    · exact hrej _
    · exact hcc _ rfl

theorem rxBytesIn_events (bytes : List Byte) : s.events <+: (rxBytesIn bytes s).events := by
  induction bytes generalizing s with
  | nil => exact List.prefix_rfl
  | cons b bs ih => exact (rxByte_events s b).trans (ih (rxByte b s))

/-- A received byte never sets `pairing`. -/
theorem rxByte_pairing (h : (rxByte b s).pairing = true) : s.pairing = true := by
  have hcc : ∀ t : State, t.pairing = s.pairing → (checkComplete t).pairing = true → s.pairing = true := by
    intro t ht hc
    unfold checkComplete at hc
    simp only at hc
    split at hc
    · rw [parserToReady_eq] at hc; rw [← ht]; exact frameDone_pairing _ _ hc
    · rw [← ht]; exact hc
  unfold rxByte at h
  split at h
  · split at h <;> exact h
  · split_ifs at h <;> exact h
  · split_ifs at h <;> exact h
  · split_ifs at h
    · exact h
    · exact hcc (setPState .awaitingPayload (rxStore 3 b s)) rfl h
  · split_ifs at h
    · exact h
    · exact hcc (rxStore s.rxidx b s) rfl h

theorem rxBytesIn_pairing (bytes : List Byte) (h : (rxBytesIn bytes s).pairing = true) : s.pairing = true := by
  induction bytes generalizing s with
  | nil => exact h
  | cons b bs ih => exact rxByte_pairing s b (ih (rxByte b s) h)

end Sys2Proof.Machine
end

