-- ==== Sys2Proof/Laws/Exec.lean ====
section
/-! SUPPORT. Everything an instruction can do: the inversion of `exec`, from which each property of all instructions is a
case analysis over shared operations. -/

namespace Sys2Proof.Machine

open Sys2Proof.Safety

/-- The states an instruction can give, by the shared operation that gives them. -/
inductive Effect (s : State) : Instr → State → Prop where
  | received (i : Instr) (b : Byte) (h : i.format = .rxbyte ∨ i = .rxbyte b) : Effect s i (rxByte b s)
  | framed (i : Instr) (f : List Byte) (h : i.format = .rxframe) : Effect s i (frameDone f s)
  | nothing (i : Instr) : Effect s i s
  | answered (i : Instr) (r : Result) : Effect s i (giveResult r s)
  | burst (t : Nat) : Effect s (.wakeBurst t) (giveResult (.resumeAt (afterWake s.params t)) (wakeBurst t s))
  | pushed (ty : ReportType) (payload : List Byte) (hl : pushLenLegal s.params ty payload.length = true)
      (hd : s.qdepth < s.params.queueCap) :
      Effect s (.push ty payload) (giveResult (.pushed true) (enqueue ⟨ty, payload⟩ s))
  | notPushed (ty : ReportType) (payload : List Byte) (c : DropCause) :
      Effect s (.push ty payload) (giveResult (.pushed false) (raiseDrop c s))
  | popped (hd : s.qdepth ≠ 0) : Effect s .pop (giveResult (.popped (some (slotAt s s.qhead))) (dequeue s))
  | cleared : Effect s .qclear (clearQueue s)
  | scheduled (t : Nat) : Effect s (.sched t) (sched t s)
  | ticked (t : Nat) (bytes : List Byte) : Effect s (.tick t bytes) (tick t bytes s)
  | timedOut (t : Nat) : Effect s (.pairtmo t) (pairTimeout t s)
  | started (m : Byte) (t : Nat) (mode : Mode) (hm : profileOf m = some mode) (hne : mode ≠ s.activeMode) :
      Effect s (.start m t) (startProfile mode t s)
  | paired (m : Byte) (t : Nat) (mode : Mode) (hm : profileOf m = some mode) :
      Effect s (.pair m t) (pairProfile mode t s)
  | stopped (t : Nat) (h : s.activeMode ≠ .usb) : Effect s (.stop t) (stopLink t s)
  | submitted (i : Instr) (ty : ReportType) (payload : List Byte)
      (hl : pushLenLegal s.params ty payload.length = true) (hd : s.qdepth < s.params.queueCap)
      (hi : i ∈ [.submitKbd payload, .submitMouse payload, .submitExtra payload, .submitNkro payload]) :
      Effect s i (enqueue ⟨ty, payload⟩ s)
  | dropped (i : Instr) (c : DropCause) : Effect s i (raiseDrop c s)

theorem effect_submit (s : State) (i : Instr) (ty : ReportType) (payload : List Byte)
    (hi : i ∈ [.submitKbd payload, .submitMouse payload, .submitExtra payload, .submitNkro payload]) :
    Effect s i (submit ty payload s) := by
  rcases submit_cases s ty payload with ⟨c, h⟩ | ⟨-, hl, hd, h⟩
  · rw [h]; exact .dropped i c
  · rw [h]; exact .submitted i ty payload hl hd hi

theorem effect_received {s u : State} {i : Instr} {b : Byte} (h : exec i s = .next (rxByte b s)) (hu : exec i s = .next u)
    (hi : i.format = .rxbyte ∨ i = .rxbyte b) : Effect s i u := by
  cases h.symm.trans hu; exact .received i b hi

/-- What an instruction that answers a next state has done. -/
theorem exec_effect {i : Instr} {s u : State} (h : exec i s = .next u) : Effect s i u := by
  cases i with
  | rxbReadySync => exact effect_received (execRxbReadySync_eq s) h (.inl rfl)
  | rxbReadyNoise b => exact effect_received (execRxbReadyNoise_eq s b) h (.inl rfl)
  | rxbSyncSync => exact effect_received (execRxbSyncSync_eq s) h (.inl rfl)
  | rxbSyncLenBad b => exact effect_received (execRxbSyncLenBad_eq s b) h (.inl rfl)
  | rxbSyncLenOk b => exact effect_received (execRxbSyncLenOk_eq s b) h (.inl rfl)
  | rxbLenCmdBad b => exact effect_received (execRxbLenCmdBad_eq s b) h (.inl rfl)
  | rxbLenCmdOk b => exact effect_received (execRxbLenCmdOk_eq s b) h (.inl rfl)
  | rxbCmdWmBad b => exact effect_received (execRxbCmdWmBad_eq s b) h (.inl rfl)
  | rxbCmdWmOk b => exact effect_received (execRxbCmdWmOk_eq s b) h (.inl rfl)
  | rxbPayOvf b => exact effect_received (execRxbPayOvf_eq s b) h (.inl rfl)
  | rxbPayData b => exact effect_received (execRxbPayData_eq s b) h (.inl rfl)
  | frmStatusConn w d => cases h; exact .framed _ _ rfl
  | frmStatusLed w d => cases h; exact .framed _ _ rfl
  | frmStatusOther c w d => cases h; exact .framed _ _ rfl
  | frmStatusStale c w d => cases h; exact .framed _ _ rfl
  | frmGeneric c w payload => cases h; exact .framed _ _ rfl
  | encKbd payload => cases h; exact .answered _ _
  | encMouse payload => cases h; exact .answered _ _
  | encExtra payload => cases h; exact .answered _ _
  | encNkro payload => cases h; exact .answered _ _
  | encStart m =>
    change execEncStart m s = _ at h
    unfold execEncStart at h
    cases hm : profileOf m <;> rw [hm] at h <;> cases h
    · exact .nothing _
    · exact .answered _ _
  | encPair m =>
    change execEncPair m s = _ at h
    unfold execEncPair at h
    cases hm : profileOf m <;> rw [hm] at h <;> cases h
    · exact .nothing _
    · exact .answered _ _
  | encStop => cases h; exact .answered _ _
  | wakeBurst t => cases h; exact .burst t
  | rxbyte b => cases h; exact .received _ b (.inr rfl)
  | push ty payload =>
    cases h
    rcases pushReport_cases s ty payload with ⟨c, h⟩ | ⟨hl, hd, h⟩ <;> rw [h]
    · exact .notPushed ty payload c
    · exact .pushed ty payload hl hd
  | pop =>
    cases h
    unfold popReport
    split
    · exact .answered _ _
    next hd => exact .popped hd
  | qclear => cases h; exact .cleared
  | qdepth => cases h; exact .answered _ _
  | sched t => cases h; exact .scheduled t
  | tick t bytes => cases h; exact .ticked t bytes
  | pairtmo t => cases h; exact .timedOut t
  | start m t =>
    cases h
    rcases start_cases s t m with h | ⟨mode, hm, hne, h⟩ <;> rw [h]
    · exact .nothing _
    · exact .started m t mode hm hne
  | pair m t =>
    cases h
    rcases pair_cases s t m with h | ⟨mode, hm, h⟩ <;> rw [h]
    · exact .nothing _
    · exact .paired m t mode hm
  | stop t =>
    cases h
    rcases stop_cases s t with h | ⟨hne, h⟩ <;> rw [h]
    · exact .nothing _
    · exact .stopped t hne
  | isconn => cases h; exact .answered _ _
  | submitKbd payload => cases h; exact effect_submit s _ .keyboard payload (by simp)
  | submitMouse payload => cases h; exact effect_submit s _ .mouse payload (by simp)
  | submitExtra payload => cases h; exact effect_submit s _ .extra payload (by simp)
  | submitNkro payload => cases h; exact effect_submit s _ .nkro payload (by simp)
  | ledq => cases h; exact .answered _ _
  | reservedE => cases h; exact .nothing _
  | reservedF => cases h; exact .nothing _

/-- A run the surroundings may make runs whole. -/
theorem admissible_runs {k : Clock} {vs : List Invocation} {s : State} (h : Admissible k vs s) :
    ∃ u, execAll (vs.map Invocation.op) s = .next u := by
  induction vs generalizing k s with
  | nil => exact ⟨s, rfl⟩
  | cons v vs ih =>
    have h := h.2.2
    simp only [List.map_cons, execAll]
    split at h
    · exact ih h
    · exact h.elim
    · exact h.elim

/-- A clock that advances leaves a window of time after boundedly many operations. -/
theorem length_le_of_clockAdvances {most lo : Nat} (gap : Nat) {vs : List Invocation} (h : ClockAdvances most vs)
    (hw : ∀ v ∈ vs, lo ≤ v.now ∧ v.now ≤ lo + gap) : vs.length ≤ most * (gap + 1) := by
  induction gap generalizing vs with
  | zero =>
    have hall : vs.countP (fun v => decide (v.now = lo)) = vs.length :=
      List.countP_eq_length.2 fun v hv => decide_eq_true (by have := hw v hv; omega)
    have := h lo
    omega
  | succ gap ih =>
    have hsplit := List.length_eq_countP_add_countP (fun v : Invocation => decide (v.now = lo + gap + 1)) (l := vs)
    have hlast := h (lo + gap + 1)
    have hrest := ih (vs := vs.filter fun v => !decide (v.now = lo + gap + 1))
      (fun t => List.filter_sublist.countP_le.trans (h t)) fun v hv => by
        obtain ⟨hv, hne⟩ := List.mem_filter.1 hv
        have := hw v hv
        simp at hne
        omega
    rw [← List.countP_eq_length_filter] at hrest
    rw [Nat.mul_succ]
    simp at hsplit hrest
    omega

/-- Operations of which none is a TICK fall short of the next one that is due: the duty is met for boundedly many. -/
theorem length_le_of_no_tick {gap most last : Nat} {vs : List Invocation} (h : KeepsTicking gap most last vs)
    (hlast : ∀ v ∈ vs, last ≤ v.now) (hn : ∀ v ∈ vs, ∀ t bytes, v.op ≠ .tick t bytes) : vs.length ≤ most * (gap + 1) := by
  refine length_le_of_clockAdvances gap h.advances fun v hv => ⟨hlast v hv, ?_⟩
  have ht := h.ticks
  clear h hlast
  induction vs with
  | nil => cases hv
  | cons w vs ih =>
    obtain ⟨hw, hrest⟩ := ht
    rcases List.mem_cons.1 hv with rfl | hv
    · exact hw
    · refine ih (fun v hv => hn v (List.mem_cons_of_mem _ hv)) hv ?_
      split at hrest
      · exact absurd ‹_› (hn w (List.mem_cons_self ..) _ _)
      · exact hrest

end Sys2Proof.Machine
end

