-- ==== Sys2Proof/Laws/PerInstr.lean ====
section
/-! SUPPORT. Statements made per instruction, one lemma for each constructor. `RowFormat`: an instruction's encoding is an
item of the format its row of spec/opcode_table.json gives (30_encoding R80). -/

namespace Sys2Proof.Laws.RowFormat

/-- The encoding has the row's format. -/
def Statement (i : Instr) : Prop := ∀ p, (encode p i).format = i.format

theorem rxbReadySync : Statement (.rxbReadySync) := fun _ => rfl
theorem rxbReadyNoise (b : Byte) : Statement (.rxbReadyNoise b) := fun _ => rfl
theorem rxbSyncSync : Statement (.rxbSyncSync) := fun _ => rfl
theorem rxbSyncLenBad (b : Byte) : Statement (.rxbSyncLenBad b) := fun _ => rfl
theorem rxbSyncLenOk (b : Byte) : Statement (.rxbSyncLenOk b) := fun _ => rfl
theorem rxbLenCmdBad (b : Byte) : Statement (.rxbLenCmdBad b) := fun _ => rfl
theorem rxbLenCmdOk (b : Byte) : Statement (.rxbLenCmdOk b) := fun _ => rfl
theorem rxbCmdWmBad (b : Byte) : Statement (.rxbCmdWmBad b) := fun _ => rfl
theorem rxbCmdWmOk (b : Byte) : Statement (.rxbCmdWmOk b) := fun _ => rfl
theorem rxbPayOvf (b : Byte) : Statement (.rxbPayOvf b) := fun _ => rfl
theorem rxbPayData (b : Byte) : Statement (.rxbPayData b) := fun _ => rfl
theorem frmStatusConn (w d : Byte) : Statement (.frmStatusConn w d) := fun _ => rfl
theorem frmStatusLed (w d : Byte) : Statement (.frmStatusLed w d) := fun _ => rfl
theorem frmStatusOther (c w d : Byte) : Statement (.frmStatusOther c w d) := fun _ => rfl
theorem frmStatusStale (c w d : Byte) : Statement (.frmStatusStale c w d) := fun _ => rfl
theorem frmGeneric (c w : Byte) (payload : List Byte) : Statement (.frmGeneric c w payload) := fun _ => rfl
theorem encKbd (payload : List Byte) : Statement (.encKbd payload) := fun _ => rfl
theorem encMouse (payload : List Byte) : Statement (.encMouse payload) := fun _ => rfl
theorem encExtra (payload : List Byte) : Statement (.encExtra payload) := fun _ => rfl
theorem encNkro (payload : List Byte) : Statement (.encNkro payload) := fun _ => rfl
theorem encStart (m : Byte) : Statement (.encStart m) := fun _ => rfl
theorem encPair (m : Byte) : Statement (.encPair m) := fun _ => rfl
theorem encStop : Statement (.encStop) := fun _ => rfl
theorem wakeBurst (t : Nat) : Statement (.wakeBurst t) := fun _ => rfl
theorem rxbyte (b : Byte) : Statement (.rxbyte b) := fun _ => rfl
theorem push (ty : ReportType) (payload : List Byte) : Statement (.push ty payload) := fun _ => rfl
theorem pop : Statement (.pop) := fun _ => rfl
theorem qclear : Statement (.qclear) := fun _ => rfl
theorem qdepth : Statement (.qdepth) := fun _ => rfl
theorem sched (t : Nat) : Statement (.sched t) := fun _ => rfl
theorem tick (t : Nat) (bytes : List Byte) : Statement (.tick t bytes) := fun _ => rfl
theorem pairtmo (t : Nat) : Statement (.pairtmo t) := fun _ => rfl
theorem start (m : Byte) (t : Nat) : Statement (.start m t) := fun _ => rfl
theorem pair (m : Byte) (t : Nat) : Statement (.pair m t) := fun _ => rfl
theorem stop (t : Nat) : Statement (.stop t) := fun _ => rfl
theorem isconn : Statement (.isconn) := fun _ => rfl
theorem submitKbd (payload : List Byte) : Statement (.submitKbd payload) := fun _ => rfl
theorem submitMouse (payload : List Byte) : Statement (.submitMouse payload) := fun _ => rfl
theorem submitExtra (payload : List Byte) : Statement (.submitExtra payload) := fun _ => rfl
theorem submitNkro (payload : List Byte) : Statement (.submitNkro payload) := fun _ => rfl
theorem ledq : Statement (.ledq) := fun _ => rfl
theorem reservedE : Statement (.reservedE) := fun _ => rfl
theorem reservedF : Statement (.reservedF) := fun _ => rfl

end Sys2Proof.Laws.RowFormat
end

