-- ==== Sys2Proof/Tests/Slice0.lean ====
section
/-! SUPPORT. Tests: ill-formed terms the checks refuse, words written out from the encodings, single steps with results
from spec/95_test_vectors.md, and for each statement with hypotheses a state and operands that meet them. -/

namespace Sys2Proof.Tests

open Sys2Proof.Machine Sys2Proof.Safety

/-! ## Helpers -/

/-- The default parameters with room for short tests (the source of Q1 to Q8 uses `QUEUE_CAP = 4`). -/
abbrev p4 : Params := { Params.default with queueCap := 4 }

/-- A longer `MAX_FRAME_LEN` than the buffer (vectors P9 and P10). -/
abbrev p40 : Params := { Params.default with maxFrameLen := 40 }

abbrev ctxIn (st : PState) (n : Nat) (m : Mode) : DecodeCtx := ⟨st, n, m, .default⟩

/-- The decoded instruction, if there is one. -/
abbrev decoded (c : DecodeCtx) (f : Fetch) : Option Instr :=
  match decode c f with
  | .ok i => some i
  | .error _ => none

/-- The next state, if there is one. -/
abbrev after (i : Instr) (s : State) : Option State :=
  match exec i s with
  | .next u => some u
  | .fault _ => none
  | .refused _ => none

/-- The state after some received bytes from reset. -/
abbrev fed (bytes : List Byte) : State := rxBytesIn bytes State.reset

/-- The payload `KEY(x)` of the vectors. -/
abbrev key (x : Byte) : List Byte := [0, 0, x, 0, 0, 0, 0, 0]

/-- The start of vectors F1 to F10. -/
abbrev sF : State := { State.reset with activeMode := .ble2, pairing := true, sinkInstalled := true }

/-- The start of vectors T1 to T14, with a given mode and clock reading of the timers. -/
abbrev sT (m : Mode) (t : Nat) : State :=
  enqueue ⟨.keyboard, key 0x04⟩ { State.reset with activeMode := m, lastSendTime := t, lastActivityTime := t }

/-- The bytes E1 of the vectors. -/
abbrev e1 : List Byte := [0x55, 0x09, 0x01, 0, 0, 0x04, 0, 0, 0, 0, 0]

/-! ## Well-formedness: an ill-formed term for each check -/

abbrev refusedBy (i : Instr) : Prop := i.wf .default = false

theorem test_wf_noise_not_sync : refusedBy (.rxbReadyNoise 0x55) := by decide
theorem test_wf_lenbad_not_sync : refusedBy (.rxbSyncLenBad 0x55) := by decide
theorem test_wf_lenbad_not_legal : refusedBy (.rxbSyncLenBad 0x02) ∧ refusedBy (.rxbSyncLenBad 0x1E) := by decide
theorem test_wf_lenok_low : refusedBy (.rxbSyncLenOk 0x01) := by decide
theorem test_wf_lenok_high : refusedBy (.rxbSyncLenOk 0x1F) := by decide
theorem test_wf_lenok_not_sync : refusedBy (.rxbSyncLenOk 0x55) := by decide
theorem test_wf_lenok_fits : (Instr.rxbSyncLenOk 0x1F).wf p40 = false := by decide
theorem test_wf_cmdbad : refusedBy (.rxbLenCmdBad 0x02) := by decide
theorem test_wf_cmdok : refusedBy (.rxbLenCmdOk 0x03) := by decide
theorem test_wf_wmbad : refusedBy (.rxbCmdWmBad 0x04) := by decide
theorem test_wf_wmok : refusedBy (.rxbCmdWmOk 0x05) := by decide
theorem test_wf_conn_wm : refusedBy (.frmStatusConn 5 0) := by decide
theorem test_wf_led_wm : refusedBy (.frmStatusLed 5 0) := by decide
theorem test_wf_other_cmd : refusedBy (.frmStatusOther 1 0 0) ∧ refusedBy (.frmStatusOther 3 0 0) := by decide
theorem test_wf_other_wm : refusedBy (.frmStatusOther 2 5 0) := by decide
theorem test_wf_stale_cmd : refusedBy (.frmStatusStale 3 0 0) := by decide
theorem test_wf_stale_wm : refusedBy (.frmStatusStale 0 5 0) := by decide
theorem test_wf_generic_not_status : refusedBy (.frmGeneric 0 0 [0]) := by decide
theorem test_wf_generic_len : refusedBy (.frmGeneric 0 0 (List.replicate 29 0)) := by decide
theorem test_wf_generic_cmd : refusedBy (.frmGeneric 3 0 []) := by decide
theorem test_wf_generic_wm : refusedBy (.frmGeneric 0 5 []) := by decide
theorem test_wf_kbd_len : refusedBy (.encKbd [0, 0, 0, 0, 0, 0, 0]) := by decide
theorem test_wf_mouse_len : refusedBy (.encMouse []) ∧ refusedBy (.encMouse (List.replicate 33 0)) := by decide
theorem test_wf_extra_len : refusedBy (.encExtra []) := by decide
theorem test_wf_nkro_len : refusedBy (.encNkro (List.replicate 33 0)) := by decide
theorem test_wf_start_mode : refusedBy (.encStart 0) ∧ refusedBy (.encStart 5) := by decide
theorem test_wf_pair_mode : refusedBy (.encPair 0) ∧ refusedBy (.encPair 5) := by decide
theorem test_wf_burst_time : refusedBy (.wakeBurst (2 ^ 32)) := by decide
theorem payloadCounted_replicate (n : Nat) : payloadCounted (List.replicate n 0) = decide (n ≤ 255) := by
  simp [payloadCounted]
theorem test_wf_push_len : refusedBy (.push .nkro (List.replicate 256 0)) := payloadCounted_replicate 256
theorem test_wf_submit_len : refusedBy (.submitKbd (List.replicate 256 0)) ∧
    refusedBy (.submitMouse (List.replicate 256 0)) ∧ refusedBy (.submitExtra (List.replicate 256 0)) ∧
    refusedBy (.submitNkro (List.replicate 256 0)) :=
  have h := payloadCounted_replicate 256
  ⟨h, h, h, h⟩
theorem test_wf_op_times : refusedBy (.sched (2 ^ 32)) ∧ refusedBy (.tick (2 ^ 32) []) ∧
    refusedBy (.pairtmo (2 ^ 32)) ∧ refusedBy (.start 1 (2 ^ 32)) ∧ refusedBy (.pair 1 (2 ^ 32)) ∧
    refusedBy (.stop (2 ^ 32)) := by decide
theorem test_wf_tick_drain : (Instr.tick 0 [1, 2]).wf { Params.default with rxDrainMax := some 1 } = false := by decide

/-! ## Decoding: a word for every constructor, written out from 30_encoding -/

-- R73, the ordered tests of the byte classes
theorem test_dec_ready_sync : decoded (ctxIn .ready 0 .usb) (.lineByte 0b01010101) = some .rxbReadySync := by decide
theorem test_dec_ready_noise : decoded (ctxIn .ready 0 .usb) (.lineByte 0b01010100) = some (.rxbReadyNoise 0x54) := by
  decide
theorem test_dec_sync_sync : decoded (ctxIn .syncSeen 1 .usb) (.lineByte 0b01010101) = some .rxbSyncSync := by decide
theorem test_dec_sync_lenbad :
    decoded (ctxIn .syncSeen 1 .usb) (.lineByte 0b00000001) = some (.rxbSyncLenBad 1) ∧
    decoded (ctxIn .syncSeen 1 .usb) (.lineByte 0b00011111) = some (.rxbSyncLenBad 31) ∧
    decoded ⟨.syncSeen, 1, .usb, p40⟩ (.lineByte 0b00011111) = some (.rxbSyncLenBad 31) := by decide
theorem test_dec_sync_lenok :
    decoded (ctxIn .syncSeen 1 .usb) (.lineByte 0b00000010) = some (.rxbSyncLenOk 2) ∧
    decoded (ctxIn .syncSeen 1 .usb) (.lineByte 0b00011110) = some (.rxbSyncLenOk 30) := by decide
theorem test_dec_len_cmdbad : decoded (ctxIn .lenSeen 2 .usb) (.lineByte 0b00000011) = some (.rxbLenCmdBad 3) ∧
    decoded (ctxIn .lenSeen 2 .usb) (.lineByte 0b01010101) = some (.rxbLenCmdBad 0x55) := by decide
theorem test_dec_len_cmdok : decoded (ctxIn .lenSeen 2 .usb) (.lineByte 0b00000010) = some (.rxbLenCmdOk 2) := by
  decide
theorem test_dec_cmd_wmbad : decoded (ctxIn .cmdSeen 3 .usb) (.lineByte 0b00000101) = some (.rxbCmdWmBad 5) := by
  decide
theorem test_dec_cmd_wmok : decoded (ctxIn .cmdSeen 3 .usb) (.lineByte 0b00000100) = some (.rxbCmdWmOk 4) := by decide
theorem test_dec_pay_ovf : decoded (ctxIn .awaitingPayload 32 .usb) (.lineByte 0b01010101) = some (.rxbPayOvf 0x55) := by
  decide
theorem test_dec_pay_data : decoded (ctxIn .awaitingPayload 31 .usb) (.lineByte 0b01010101) = some (.rxbPayData 0x55) := by
  decide
-- R61 to R63, incoming frames 55 LEN CMD WORKMODE DATA
theorem test_dec_frm_conn :
    decoded (ctxIn .ready 0 .ble2) (.rxFrame [0x55, 0x03, 0x00, 0x02, 0x00]) = some (.frmStatusConn 2 0) := by decide
theorem test_dec_frm_led :
    decoded (ctxIn .ready 0 .ble2) (.rxFrame [0x55, 0x03, 0x01, 0x02, 0x05]) = some (.frmStatusLed 2 5) := by decide
theorem test_dec_frm_other :
    decoded (ctxIn .ready 0 .ble2) (.rxFrame [0x55, 0x03, 0x02, 0x02, 0x07]) = some (.frmStatusOther 2 2 7) := by decide
theorem test_dec_frm_stale :
    decoded (ctxIn .ready 0 .ble2) (.rxFrame [0x55, 0x03, 0x01, 0x03, 0x05]) = some (.frmStatusStale 1 3 5) := by decide
theorem test_dec_frm_generic :
    decoded (ctxIn .ready 0 .ble2) (.rxFrame [0x55, 0x02, 0x00, 0x00]) = some (.frmGeneric 0 0 []) ∧
    decoded (ctxIn .ready 0 .ble2) (.rxFrame [0x55, 0x04, 0x00, 0x02, 0x00, 0xFF]) = some (.frmGeneric 0 2 [0, 0xFF]) := by
  decide
theorem test_dec_frm_refused :
    decode (ctxIn .ready 0 .usb) (.rxFrame [0x54, 0x03, 0x00, 0x00, 0x00]) = .error .notAFrame ∧
    decode (ctxIn .ready 0 .usb) (.rxFrame [0x55, 0x03, 0x00]) = .error .notAFrame ∧
    decode (ctxIn .ready 0 .usb) (.rxFrame [0x55, 0x01, 0x00, 0x00, 0x00]) = .error .badLength ∧
    decode (ctxIn .ready 0 .usb) (.rxFrame [0x55, 0x04, 0x00, 0x00, 0x00]) = .error .badLength ∧
    decode (ctxIn .ready 0 .usb) (.rxFrame [0x55, 0x03, 0x03, 0x00, 0x00]) = .error .badCmd ∧
    decode (ctxIn .ready 0 .usb) (.rxFrame [0x55, 0x03, 0x00, 0x05, 0x00]) = .error .badWorkmode :=
  ⟨rfl, rfl, rfl, rfl, rfl, rfl⟩
-- R67 to R72, outgoing frames: vectors E1, E3, E4, E5, E8, E10, E12, E13
theorem test_dec_enc_kbd : decoded .atReset (.txReport .keyboard e1) = some (.encKbd (key 0x04)) := by decide
theorem test_dec_enc_mouse : decoded .atReset (.txReport .mouse [0x55, 0x05, 0x00, 0x05, 0xFB, 0x00, 0x00]) =
    some (.encMouse [0x00, 0x05, 0xFB, 0x00, 0x00]) := by decide
theorem test_dec_enc_extra : decoded .atReset (.txReport .extra [0x55, 0x03, 0x03, 0xE9, 0x00]) =
    some (.encExtra [0x03, 0xE9, 0x00]) := by decide
theorem test_dec_enc_nkro : decoded .atReset (.txReport .nkro [0x55, 0x04, 0x01, 0x00, 0x10, 0x00]) =
    some (.encNkro [0x01, 0x00, 0x10, 0x00]) := by decide
theorem test_dec_enc_start : decoded .atReset (.txCommand [0x55, 0x14, 0x00, 0x02, 0x51, 0x4D, 0x4B, 0x2D, 0x57, 0x49, 0x52,
    0x45, 0x4C, 0x45, 0x53, 0x53, 0x2D, 0x4B, 0x42, 0x2D, 0x32, 0x00]) = some (.encStart 2) := by decide
theorem test_dec_enc_pair : decoded .atReset (.txCommand [0x55, 0x03, 0x00, 0x01, 0x01]) = some (.encPair 1) := by decide
theorem test_dec_enc_stop : decoded .atReset (.txCommand [0x55, 0x02, 0x00, 0x00]) = some .encStop := by decide
theorem test_dec_wakeburst : decoded .atReset (.txBurst 500 (List.replicate 60 0)) = some (.wakeBurst 500) := rfl
theorem test_dec_tx_refused :
    decode .atReset (.txReport .mouse [0x55]) = .error .notAFrame ∧
    decode .atReset (.txReport .mouse [0x55, 0x02, 0x00]) = .error .badLength ∧
    decode .atReset (.txReport .keyboard [0x55, 0x02, 0x02, 0x00]) = .error .notOutgoing ∧
    decode .atReset (.txCommand [0x55, 0x02, 0x00, 0x01]) = .error .notOutgoing ∧
    decode .atReset (.txBurst 0 (List.replicate 59 0)) = .error .notOutgoing := ⟨rfl, rfl, rfl, rfl, rfl⟩
-- R77, command words: selector in bits 3..0, report type in bits 5..4
theorem test_dec_ops_with_operands :
    decoded .atReset (.command 0b00000000 { b := 0x55 }) = some (.rxbyte 0x55) ∧
    decoded .atReset (.command 0b00000101 { t := 7 }) = some (.sched 7) ∧
    decoded .atReset (.command 0b00000110 { t := 7, data := [1, 2] }) = some (.tick 7 [1, 2]) ∧
    decoded .atReset (.command 0b00000111 { t := 7 }) = some (.pairtmo 7) ∧
    decoded .atReset (.command 0b00001000 { m := 2, t := 7 }) = some (.start 2 7) ∧
    decoded .atReset (.command 0b00001001 { m := 2, t := 7 }) = some (.pair 2 7) ∧
    decoded .atReset (.command 0b00001010 { t := 7 }) = some (.stop 7) := by decide
theorem test_dec_ops_without_operands :
    decoded .atReset (.command 0b00000010 {}) = some .pop ∧
    decoded .atReset (.command 0b00000011 {}) = some .qclear ∧
    decoded .atReset (.command 0b00000100 {}) = some .qdepth ∧
    decoded .atReset (.command 0b00001011 {}) = some .isconn ∧
    decoded .atReset (.command 0b00001101 {}) = some .ledq ∧
    decoded .atReset (.command 0b00001110 {}) = some .reservedE ∧
    decoded .atReset (.command 0b00001111 {}) = some .reservedF := by decide
theorem test_dec_ops_with_payload :
    decoded .atReset (.command 0b00010001 { len := 2, data := [1, 2] }) = some (.push .mouse [1, 2]) ∧
    decoded .atReset (.command 0b00001100 { len := 8, data := key 4 }) = some (.submitKbd (key 4)) ∧
    decoded .atReset (.command 0b00011100 { len := 1, data := [9] }) = some (.submitMouse [9]) ∧
    decoded .atReset (.command 0b00101100 { len := 1, data := [9] }) = some (.submitExtra [9]) ∧
    decoded .atReset (.command 0b00111100 { len := 1, data := [9] }) = some (.submitNkro [9]) := by decide
theorem test_dec_payload_miscounted :
    decode .atReset (.command 0b00000001 { len := 2, data := [1] }) = .error .lenLineMismatch := rfl

/-! ## Words of the table, and the fetch -/

theorem test_table_words :
    decodeTableWord 8 0x55 = some .rxbReadySync ∧ decodeTableWord 8 0x00 = some (.rxbyte 0) ∧
    decodeTableWord 8 0x3C = some (.submitNkro []) ∧ decodeTableWord 8 0x0F = some .reservedF ∧
    decodeTableWord 32 0x55020000 = some .encStop ∧ decodeTableWord 24 0x551400 = some (.encStart 0) ∧
    decodeTableWord 40 0x5503000001 = some (.encPair 0) ∧ decodeTableWord 40 0x5503010000 = some (.frmStatusLed 0 0) ∧
    decodeTableWord 480 0 = some (.wakeBurst 0) := ⟨rfl, rfl, rfl, rfl, rfl, rfl, rfl, rfl, rfl⟩
theorem test_fetch_runs_the_word :
    step (State.reset.withFetchWord 8 0x55) = exec .rxbReadySync State.reset ∧
    step (State.reset.withFetchWord 40 0x5503010007) = exec (.frmStatusLed 0 7) State.reset := ⟨rfl, rfl⟩
theorem test_step_waits : step State.reset = .next State.reset := rfl
theorem test_step_refuses : step { State.reset with pending := [.rxFrame []] } = .refused (.undecodable .notAFrame) := rfl

/-! ## The parser: vectors P1 to P28 -/

theorem test_p1 : (after (.rxbyte 0x55) State.reset).map (fun u => (u.pstate, u.rxidx, u.rxbuf)) =
    some (.syncSeen, 1, [(0, 0x55)]) := by decide
theorem test_p2 : (after (.rxbReadyNoise 0x54) State.reset).map (fun u => (u.pstate, u.rxidx, u.events)) =
    some (.ready, 0, [.drop (.noise 0x54)]) := by decide
theorem test_p3 : (after .rxbSyncSync (fed [0x55])).map (fun u => (u.pstate, u.rxidx)) = some (.syncSeen, 1) := by decide
theorem test_p5 : (after (.rxbSyncLenBad 0x01) (fed [0x55])).map (fun u => (u.pstate, u.rxidx, u.rxbuf, u.events)) =
    some (.ready, 0, [], [.reject .badLen 0x01]) := by decide
theorem test_p7 : (after (.rxbSyncLenOk 0x1E) (fed [0x55])).map (fun u => (u.pstate, u.rxidx, u.rxbuf)) =
    some (.lenSeen, 2, [(0, 0x55), (1, 0x1E)]) := by decide
theorem test_p8 : (after (.rxbyte 0x1F) (fed [0x55])).map (·.pstate) = some .ready := by decide
theorem test_p9 : (rxBytesIn [0x55, 0x1F] (State.resetWith p40)).pstate = .ready := by decide
theorem test_p10 : (rxBytesIn [0x55, 0x1E] (State.resetWith p40)).pstate = .lenSeen := by decide
theorem test_p13 : (fed ([0x55, 0x1E, 0x00, 0x00] ++ List.replicate 28 0xAA)).pstate = .ready := by decide
theorem test_p14 : (fed ([0x55, 0x1E, 0x00, 0x00] ++ List.replicate 27 0xAA)).rxidx = 31 := by decide
theorem test_p16 : (after (.rxbLenCmdBad 0x03) (fed [0x55, 0x03])).map (fun u => (u.pstate, u.events)) =
    some (.ready, [.reject .badCmd 0x03]) := by decide
theorem test_p17 : (after (.rxbLenCmdOk 0x02) (fed [0x55, 0x03])).map (fun u => (u.pstate, u.rxidx)) =
    some (.cmdSeen, 3) := by decide
theorem test_p18 : (after (.rxbLenCmdBad 0x55) (fed [0x55, 0x03])).map (·.pstate) = some .ready := by decide
theorem test_p19 : (after (.rxbCmdWmBad 0x05) (fed [0x55, 0x03, 0x00])).map (fun u => (u.pstate, u.events)) =
    some (.ready, [.reject .badWorkmode 0x05]) := by decide
theorem test_p20 : (after (.rxbCmdWmOk 0x04) (fed [0x55, 0x03, 0x00])).map (fun u => (u.pstate, u.rxidx)) =
    some (.awaitingPayload, 4) := by decide
theorem test_p22 : (after (.rxbCmdWmOk 0x00) (fed [0x55, 0x02, 0x00])).map (fun u => (u.pstate, u.rxidx, u.events)) =
    some (.ready, 0, [.frameDone [0x55, 0x02, 0x00, 0x00]]) := by decide
theorem test_p24 : (after (.rxbPayData 0x55) (fed [0x55, 0x04, 0x00, 0x00, 0x55])).map (·.events) =
    some [.frameDone [0x55, 0x04, 0x00, 0x00, 0x55, 0x55]] := by decide
theorem test_p25 : (after (.rxbPayData 0x00) (fed [0x55, 0x55, 0x03, 0x00, 0x00])).map (·.connected) = some true := by
  decide
theorem test_p27 : (fed [0x55, 0x03, 0x55, 0x03, 0x00, 0x00, 0x00]).events =
    [.reject .badCmd 0x55, .drop (.noise 0x03), .drop (.noise 0), .drop (.noise 0), .drop (.noise 0)] := by decide
theorem test_pay_ovf : (after (.rxbPayOvf 0x07) { State.reset with pstate := .awaitingPayload, rxidx := 32 }).map
    (fun u => (u.pstate, u.rxidx, u.events)) = some (.ready, 0, [.reject .overflow 0x07]) := by decide

/-! ## Frames: vectors F1 to F10 -/

abbrev flags (u : State) : Bool × Byte × Bool := (u.connected, u.ledState, u.pairing)

theorem test_f1 : (after (.frmStatusConn 2 0) sF).map flags = some (true, 0, false) := by decide
theorem test_f9 : (after (.frmStatusConn 2 0xFF) sF).map flags = some (false, 0, false) := by decide
theorem test_f3 : (after (.frmStatusStale 0 1 0) sF).map flags = some (false, 0, true) := by decide
theorem test_f5 : (after (.frmStatusLed 2 5) sF).map flags = some (false, 5, true) := by decide
theorem test_f6 : (after (.frmStatusStale 1 3 5) sF).map flags = some (false, 0, true) := by decide
theorem test_f7 : (after (.frmStatusOther 2 2 7) sF).map flags = some (false, 0, true) := by decide
theorem test_f8 : (after (.frmGeneric 0 2 [0, 0]) sF).map flags = some (false, 0, true) := by decide

/-! ## Outgoing frames: vectors E1 to E13 -/

theorem test_e1 : (after (.encKbd (key 0x04)) State.reset).map (·.results) = some [.frame e1] := by decide
theorem test_e3 : (after (.encMouse [0x00, 0x05, 0xFB, 0x00, 0x00]) State.reset).map (·.results) =
    some [.frame [0x55, 0x05, 0x00, 0x05, 0xFB, 0x00, 0x00]] := by decide
theorem test_e4 : (after (.encExtra [0x03, 0xE9, 0x00]) State.reset).map (·.results) =
    some [.frame [0x55, 0x03, 0x03, 0xE9, 0x00]] := by decide
theorem test_e5 : (after (.encNkro [0x01, 0x00, 0x10, 0x00]) State.reset).map (·.results) =
    some [.frame [0x55, 0x04, 0x01, 0x00, 0x10, 0x00]] := by decide
theorem test_e8 : (after (.encStart 2) State.reset).map (·.results) =
    some [.frame [0x55, 0x14, 0x00, 0x02, 0x51, 0x4D, 0x4B, 0x2D, 0x57, 0x49, 0x52, 0x45, 0x4C, 0x45, 0x53, 0x53, 0x2D,
      0x4B, 0x42, 0x2D, 0x32, 0x00]] := by decide
theorem test_e11 : (after (.encPair 4) State.reset).map (·.results) = some [.frame [0x55, 0x03, 0x00, 0x04, 0x01]] := by
  decide
theorem test_e12 : (after .encStop State.reset).map (·.results) = some [.frame [0x55, 0x02, 0x00, 0x00]] := by decide
theorem test_e13 : (after (.wakeBurst 500) State.reset).map (fun u => (u.tx, u.results)) =
    some (List.replicate 60 (500, 0), [.resumeAt 510]) := rfl

/-- Loop-back (30_encoding R79): a keyboard frame is a generic frame, or is rejected at its fourth byte. -/
theorem test_e14 : (rxBytesIn e1 { State.reset with activeMode := .ble1 }).events = [.frameDone e1] := by decide
theorem test_e15 : (rxBytesIn [0x55, 0x09, 0x01, 0x10, 0x00] { State.reset with activeMode := .ble1 }).events =
    [.reject .badWorkmode 0x10, .drop (.noise 0)] := by decide

/-! ## The queue: vectors Q1 to Q12 -/

abbrev ring (u : State) : Nat × Nat × Nat := (u.qhead, u.qtail, u.qdepth)

/-- A ring of four entries, full, oldest at slot 0. -/
abbrev sQ4 : State :=
  enqueue ⟨.keyboard, key 4⟩ (enqueue ⟨.keyboard, key 3⟩ (enqueue ⟨.keyboard, key 2⟩ (enqueue ⟨.keyboard, key 1⟩
    (State.resetWith p4))))

theorem test_q1 : (after (.push .keyboard (key 1)) (State.resetWith p4)).map (fun u => (ring u, u.results)) =
    some ((0, 1, 1), [.pushed true]) := by decide
theorem test_q2 : ring sQ4 = (0, 0, 4) := by decide
theorem test_q3 : (after (.push .keyboard (key 5)) sQ4).map (fun u => (ring u, u.results, u.qmem = sQ4.qmem)) =
    some ((0, 0, 4), [.pushed false], True) := by simp [ring]; decide
theorem test_q4 : (after .pop sQ4).map (fun u => (ring u, u.results)) =
    some ((1, 0, 3), [.popped (some ⟨.keyboard, key 1⟩)]) := by decide
theorem test_q5 : (after .pop { State.resetWith p4 with qhead := 2, qtail := 2 }).map (fun u => (ring u, u.results)) =
    some ((2, 2, 0), [.popped none]) := by decide
theorem test_q8 : (after .qclear sQ4).map (fun u => (ring u, u.qmem)) = some ((0, 0, 0), []) := by decide
theorem test_q9 : (after (.push .keyboard [0, 0, 4, 0, 0, 0, 0]) State.reset).map (fun u => (ring u, u.results)) =
    some ((0, 0, 0), [.pushed false]) := by decide
theorem test_qdepth : (after .qdepth sQ4).map (·.results) = some [.depth 4] := by decide

/-! ## The scheduler: vectors T1 to T14 -/

abbrev sent (u : State) : List (Nat × Byte) × Nat × Nat × Nat := (u.tx, u.lastSendTime, u.lastActivityTime, u.qdepth)

theorem test_t2 : (after (.sched 107) (sT .ble2 100)).map sent = some ([], 100, 100, 1) := by decide
theorem test_t3 : (after (.sched 108) (sT .ble2 100)).map sent = some (e1.map fun b => (108, b), 108, 108, 0) := rfl
theorem test_t5 : (sched 102 (sT .dongle 100)).tx = e1.map fun b => (102, b) := rfl
theorem test_t8 : (sched 10101 (sT .ble2 100)).tx = List.replicate 60 (10101, 0) ++ e1.map fun b => (10111, b) := rfl
theorem test_t12 : rateLimited (sT .ble2 0xFFFFFFFA) 1 = true ∧ rateLimited (sT .ble2 0xFFFFFFFA) 2 = false := by decide
theorem test_tick : (after (.tick 108 [0x55, 0x03, 0x00, 0x02, 0x00]) (sT .ble2 100)).map
    (fun u => (u.connected, u.tx)) = some (true, e1.map fun b => (108, b)) := rfl

/-! ## Link operations and the sink: vectors L1 to L16 -/

theorem test_l1 : (after (.start 2 0) State.reset).map (fun u => (u.activeMode, u.sinkInstalled, u.tx.length, u.lastSendTime)) =
    some (.ble2, true, 104, 20) := rfl
theorem test_l4 : after (.start 5 0) State.reset = some State.reset := by decide
theorem test_l5 : (after (.pair 1 1000) State.reset).map (fun u => (u.activeMode, u.pairing, u.pairStartTime, u.tx.length)) =
    some (.ble1, true, 1000, 70) := rfl
theorem test_l6 : (after (.pairtmo 61000) { sF with pairStartTime := 1000 }).map (·.pairing) = some true := by decide
theorem test_l7 : (after (.pairtmo 61001) { sF with pairStartTime := 1000 }).map (·.pairing) = some false := by decide
theorem test_l10 : (after (.stop 500) { sF with connected := true }).map (fun u => (u.activeMode, flags u, u.tx)) =
    some (.usb, (false, 0, false), List.replicate 60 (500, 0) ++ [(510, 0x55), (510, 0x02), (510, 0), (510, 0)]) := rfl
theorem test_l11 : after (.stop 0) State.reset = some State.reset := by decide
theorem test_l12 : (after (.submitKbd (key 4)) State.reset).map (fun u => (u.qdepth, u.events)) =
    some (0, [.drop (.linkDown .keyboard)]) := by decide
theorem test_l13 : (after (.submitKbd (key 4)) { State.reset with connected := true }).map (fun u => (u.qdepth, u.results)) =
    some (1, []) := by decide
theorem test_l14 : (after (.submitMouse [0x00, 0x05, 0xFB, 0x00, 0x00]) { sQ4 with connected := true }).map
    (fun u => (u.qdepth, u.events, u.results)) = some (4, [.drop (.queueFull .mouse)], []) := by decide
theorem test_submit_extra : (after (.submitExtra [0x03, 0xE9, 0x00]) { State.reset with connected := true }).map (·.qmem) =
    some [(0, ⟨.extra, [0x03, 0xE9, 0x00]⟩)] := by decide
theorem test_submit_nkro : (after (.submitNkro [0x01, 0x00, 0x10, 0x00]) { State.reset with connected := true }).map (·.qmem) =
    some [(0, ⟨.nkro, [0x01, 0x00, 0x10, 0x00]⟩)] := by decide
theorem test_l15 : (after .ledq { sF with ledState := 5 }).map (·.results) = some [.leds 5] := by decide
theorem test_l16 : (after .isconn State.reset).map (·.results) = some [.connected false] := by decide
theorem test_reserved : after .reservedE sF = some sF ∧ after .reservedF sF = some sF := by decide

/-! ## Causes (60_exceptions R210) -/

theorem test_cause_codes :
    [DropCause.code (.noise 0), RejectCause.code .badLen, RejectCause.code .badCmd, RejectCause.code .badWorkmode,
      RejectCause.code .overflow, DropCause.code (.stale []), DropCause.code (.ignoredCmd []),
      DropCause.code (.queueFull .mouse), DropCause.code (.badPushLen .mouse 0), DropCause.code (.linkDown .mouse)] =
    [0, 1, 2, 3, 4, 5, 6, 7, 8, 9] := by decide
theorem test_cause_classes :
    [DropCause.errorClass (.noise 0), DropCause.errorClass (.stale []), DropCause.errorClass (.ignoredCmd []),
      DropCause.errorClass (.queueFull .mouse), DropCause.errorClass (.badPushLen .mouse 0),
      DropCause.errorClass (.linkDown .mouse)] =
    [some .framing, some .staleData, none, some .capacity, none, some .linkDown] := by decide

/-! ## Premises on runs (60_exceptions R230; 70_reset R244, R247, R257) -/

theorem test_may_invoke :
    invokers .pop = [.transmitScheduler] ∧ invokers (.push .mouse [1]) = [.hostReportSink] ∧
    invokers .qclear = [.linkController] ∧ invokers (.rxbyte 0) = [.frameCodec] ∧ invokers (.tick 0 []) = [.mainLoop] ∧
    invokers (.wakeBurst 0) = [] ∧ invokers .reservedE = [] ∧
    mayInvoke .hostReportSink .pop = false ∧ mayInvoke .hostReportSink .qclear = false ∧
    mayInvoke .linkController (.push .mouse [1]) = false := by decide

/-- A report of an illegal length, a mode outside one to four, a report with no sink, a bare POP by the sink. -/
theorem test_duties_not_met :
    ¬ DutyMet ⟨.hostReportSink, .submitKbd [1], 0⟩ sF ∧ ¬ DutyMet ⟨.hostReportSink, .submitMouse [], 0⟩ sF ∧
    ¬ DutyMet ⟨.linkController, .start 5 0, 0⟩ State.reset ∧
    ¬ DutyMet ⟨.hostReportSink, .submitKbd (key 4), 0⟩ State.reset ∧ ¬ DutyMet ⟨.hostReportSink, .pop, 0⟩ sF := by
  simp [DutyMet, SubmitDuty]; decide

/-- A reading inside the last busy interval; a scheduler with an entry queued 2^32 ms after the last frame. -/
theorem test_clock_not_met :
    ¬ ClockMet ⟨20, 20, 0⟩ ⟨.linkController, .stop 19, 19⟩ State.reset ∧
    ¬ ClockMet ⟨0, 0, 0⟩ ⟨.transmitScheduler, .sched 0, 2 ^ 32⟩ (sT .ble2 0) := by
  refine ⟨fun h => absurd h.notBusy (by decide), fun h => absurd (h.timersBound (show _ ≠ 0 by decide)) (by decide)⟩

/-- A run the surroundings may make: profile 2 started, connected by the module, a report submitted and sent. -/
abbrev session : List Invocation :=
  [⟨.linkController, .start 2 0, 0⟩, ⟨.mainLoop, .tick 20 [0x55, 3, 0, 2, 0], 20⟩,
    ⟨.hostReportSink, .submitKbd (key 4), 21⟩, ⟨.mainLoop, .tick 30 [], 30⟩]

theorem test_session_admissible : Admissible Clock.atReset session State.reset := by
  refine ⟨⟨by decide, by decide, by decide, by decide⟩, ⟨by decide, ?_, fun h => h.elim, fun h => h.elim⟩, ?_⟩
  · intro t h; cases h; rfl
  refine ⟨⟨by decide, by decide, by decide, trivial⟩, ⟨by decide, ?_, fun _ => by decide, fun _ => by decide⟩, ?_⟩
  · intro t h; cases h; rfl
  refine ⟨⟨by decide, by decide, by decide, by decide, by decide⟩,
    ⟨by decide, fun _ h => (nomatch h), fun h => h.elim, fun h => h.elim⟩, ?_⟩
  refine ⟨⟨by decide, by decide, by decide, trivial⟩, ⟨by decide, ?_, fun _ => by decide, fun _ => by decide⟩, trivial⟩
  intro t h; cases h; rfl

theorem test_session_keeps_ticking : KeepsTicking 20 1 0 session :=
  ⟨by simp [TicksWithin], fun t => by simp [session, List.countP_cons]; split_ifs <;> omega⟩

/-- Three TICKs at one time: no clock that advances from two operations to the next. -/
theorem test_clock_stands : ¬ KeepsTicking 20 2 0 (List.replicate 3 ⟨.mainLoop, .tick 5 [], 5⟩) :=
  fun h => absurd (h.advances 5) (by decide)

/-! ## Witnesses: states and operands that meet the statements' hypotheses, clause by clause -/

theorem legal_default : Params.default.Legal :=
  ⟨by decide, by decide, rfl, rfl, by decide, by decide, by decide, by decide, rfl, fun _ h => nomatch h⟩

theorem parserInv_fed (bytes : List Byte) : ParserInv (fed bytes) :=
  rxBytesIn_parserInv _ bytes legal_default (parserInv_ready _ rfl rfl rfl)

/-- A reset ring of four entries meets the queue invariant, and so does a full one. -/
theorem queueInv_reset4 : QueueInv (State.resetWith p4) := queueInv_empty _ (by decide) rfl rfl rfl rfl

theorem queueInv_full : QueueInv sQ4 :=
  queueInv_enqueue _ (queueInv_enqueue _ (queueInv_enqueue _ (queueInv_enqueue _ queueInv_reset4 (by decide) (by decide))
    (by decide) (by decide)) (by decide) (by decide)) (by decide) (by decide)

/-- A wireless session with a frame partly received, an entry queued, bytes written and a SCHED presented. -/
abbrev sInv : State :=
  enqueue ⟨.keyboard, key 4⟩
    { fed [0x55, 0x03] with
      activeMode := .ble2
      sinkInstalled := true
      connected := true
      pairing := true
      lastSendTime := 100
      lastActivityTime := 100
      tx := [(100, 0x55)]
      pending := [.command 0x05 { t := 108 }] }

theorem witness_inv : Inv sInv where
  params := legal_default
  parser := parserInv_of_same (parserInv_fed [0x55, 0x03]) rfl rfl rfl rfl
  queue := queueInv_enqueue _ (queueInv_empty _ (by decide) rfl rfl rfl rfl) (by decide) (by decide)
  timers := ⟨rfl, by decide, by decide, by decide⟩
  link := ⟨by decide, by decide⟩

theorem witness_StepKeepsInvariant : Inv sInv ∧ ∃ u, step sInv = .next u := ⟨witness_inv, _, rfl⟩

theorem witness_ResetMeetsInvariant : ∃ p : Params, p.Legal := ⟨_, legal_default⟩

theorem witness_ReadySyncByteStartsFrame : State.reset.pstate = .ready := rfl

theorem witness_ReadyOtherByteIsDropped : State.reset.pstate = .ready ∧ (0x54 : Byte) ≠ 0x55 ∧ (0x56 : Byte) ≠ 0x55 := by
  decide

theorem witness_SyncSeenAbsorbsRepeatedSync : (fed [0x55]).pstate = .syncSeen := by decide

theorem witness_SyncSeenRejectsOrStoresLength :
    (fed [0x55]).pstate = .syncSeen ∧ (rxBytesIn [0x55] (State.resetWith p40)).pstate = .syncSeen ∧
    (0x01 : Byte) ≠ 0x55 ∧ (0x01 : Byte).toNat < 2 ∧ (0x1F : Byte).toNat > Params.default.maxFrameLen ∧
    (0x1F : Byte).toNat ≤ p40.maxFrameLen ∧ (0x1F : Byte).toNat + 2 > p40.rxBufCap ∧
    2 ≤ (0x02 : Byte).toNat ∧ (0x1E : Byte).toNat ≤ Params.default.maxFrameLen ∧
    (0x1E : Byte).toNat + 2 ≤ Params.default.rxBufCap := by decide

theorem witness_LenSeenRejectsOrStoresCommand :
    (fed [0x55, 0x03]).pstate = .lenSeen ∧ (0x03 : Byte).toNat > Params.default.cmdMax ∧
    (0x02 : Byte).toNat ≤ Params.default.cmdMax := by decide

theorem witness_CmdSeenRejectsBadWorkmode :
    (fed [0x55, 0x03, 0x00]).pstate = .cmdSeen ∧ (0x05 : Byte).toNat > Params.default.workmodeMax := by decide

theorem witness_CmdSeenStoresWorkmode :
    (fed [0x55, 0x03, 0x00]).pstate = .cmdSeen ∧ (fed [0x55, 0x02, 0x00]).pstate = .cmdSeen ∧
    (0x04 : Byte).toNat ≤ Params.default.workmodeMax ∧
    (rxAt (fed [0x55, 0x03, 0x00]) 1).toNat ≠ 2 ∧ (rxAt (fed [0x55, 0x02, 0x00]) 1).toNat = 2 := by decide

theorem witness_PayloadByteIsStoredAndCompletesFrame :
    ParserInv (fed [0x55, 0x03, 0x00, 0x00]) ∧ (fed [0x55, 0x03, 0x00, 0x00]).pstate = .awaitingPayload ∧
    (fed [0x55, 0x03, 0x00, 0x00]).rxidx + 1 = (rxAt (fed [0x55, 0x03, 0x00, 0x00]) 1).toNat + 2 ∧
    ParserInv (fed [0x55, 0x04, 0x00, 0x00]) ∧ (fed [0x55, 0x04, 0x00, 0x00]).pstate = .awaitingPayload ∧
    (fed [0x55, 0x04, 0x00, 0x00]).rxidx + 1 ≠ (rxAt (fed [0x55, 0x04, 0x00, 0x00]) 1).toNat + 2 :=
  ⟨parserInv_fed _, by decide, by decide, parserInv_fed _, by decide, by decide⟩

theorem witness_FullBufferRejectsPayloadByte :
    ∃ s : State, s.pstate = .awaitingPayload ∧ s.rxidx = s.params.rxBufCap :=
  ⟨{ State.reset with pstate := .awaitingPayload, rxidx := 32 }, by decide⟩

theorem witness_ReceivedByteTouchesOnlyParserAndStatus : Instr.rxbPayData 7 ∈ [Instr.rxbyte 7, .rxbPayData 7] := by decide

theorem witness_BufferIndexNeverExceedsCapacity :
    State.reset.params.Legal ∧ ParserInv State.reset ∧ ParserInv (fed [0x55, 0x1E, 0x00, 0x00]) :=
  ⟨legal_default, parserInv_fed [], parserInv_fed _⟩

/-- The shortest and the longest count: LEN 3 and LEN 30 with nothing of the payload received. -/
theorem witness_PayloadCountEndsInReady :
    ParserInv (fed [0x55, 0x1E, 0x00, 0x00]) ∧ (fed [0x55, 0x1E, 0x00, 0x00]).pstate = .awaitingPayload ∧
    (rxAt (fed [0x55, 0x1E, 0x00, 0x00]) 1).toNat + 2 - (fed [0x55, 0x1E, 0x00, 0x00]).rxidx = 28 ∧
    (rxAt (fed [0x55, 0x03, 0x00, 0x00]) 1).toNat + 2 - (fed [0x55, 0x03, 0x00, 0x00]).rxidx = 1 :=
  ⟨parserInv_fed _, by decide, by decide, by decide⟩

theorem witness_OtherCommandFrameIsIgnored : (2 : Byte) ≠ 0 ∧ (2 : Byte) ≠ 1 ∧ (255 : Byte) ≠ 0 ∧ (255 : Byte) ≠ 1 := by decide

theorem witness_StaleStatusFrameHasNoEffect :
    (1 : Byte) ≠ sF.activeMode.code ∧ (3 : Byte) ≠ sF.activeMode.code ∧ (0 : Byte) ≠ sF.activeMode.code := by decide

theorem witness_GenericFrameHasNoEffect : ([] : List Byte).length ≠ 1 ∧ ([0, 0] : List Byte).length ≠ 1 := by decide

theorem witness_StatusFrameIsAppliedIffForActiveMode :
    sF.params.Legal ∧ sF.pstate = .ready ∧ sF.rxidx = 0 ∧ sF.rxbuf = [] ∧ (2 : Byte).toNat ≤ 2 ∧ (4 : Byte).toNat ≤ 4 ∧
    (2 : Byte) = sF.activeMode.code ∧ (4 : Byte) ≠ sF.activeMode.code := ⟨legal_default, by decide⟩

theorem witness_RawReportFrameBytes :
    1 ≤ ([7] : List Byte).length ∧ (List.replicate 32 (0x11 : Byte)).length ≤ State.reset.params.payloadCap := by decide

theorem witness_StartPairFrameBytes : 1 ≤ (1 : Byte).toNat ∧ (1 : Byte).toNat ≤ 4 ∧ (4 : Byte).toNat ≤ 4 := by decide

theorem witness_EveryOutgoingFrameCountsItself :
    State.reset.params.Legal ∧ (Instr.encPair 4).wf State.reset.params = true ∧
    exec (.encPair 4) State.reset = .next { State.reset with results := [.frame [0x55, 3, 0, 4, 1]] } :=
  ⟨legal_default, by decide, rfl⟩

theorem witness_PushWritesTailSlot :
    1 ≤ ([7] : List Byte).length ∧ (List.replicate 32 (7 : Byte)).length ≤ State.reset.params.payloadCap ∧
    (key 4).length = 8 ∧ State.reset.qdepth < State.reset.params.queueCap := by decide

theorem witness_PushRefusesIllegalLengthAndFullQueue :
    ([] : List Byte).length = 0 ∧ State.reset.params.payloadCap < (List.replicate 33 (7 : Byte)).length ∧
    ([0, 0, 4, 0, 0, 0, 0] : List Byte).length ≠ 8 ∧ pushLenLegal sQ4.params .keyboard (key 4).length = true ∧
    sQ4.params.queueCap ≤ sQ4.qdepth := by decide

theorem witness_PopReturnsOldestEntryOrNothing : 0 < sQ4.qdepth ∧ State.reset.qdepth = 0 := by decide

theorem witness_RingRefinesBoundedFifo :
    QueueInv sQ4 ∧ pushLenLegal sQ4.params .mouse 5 = true ∧ ¬ (liveEntries sQ4).length < sQ4.params.queueCap ∧
    QueueInv (State.resetWith p4) ∧ (liveEntries (State.resetWith p4)).length < p4.queueCap :=
  ⟨queueInv_full, by decide, by decide, queueInv_reset4, by decide⟩

theorem witness_OverflowKeepsOldestReports :
    QueueInv (State.resetWith p4) ∧ (State.resetWith p4).qdepth = 0 ∧
    ∀ e ∈ List.replicate 5 (⟨.keyboard, key 4⟩ : Entry), pushLenLegal p4 e.type e.data.length = true :=
  ⟨queueInv_reset4, rfl, by decide⟩

theorem witness_RateLimitedSchedDoesNothing :
    0 < (sT .ble2 100).qdepth ∧ elapsed .default 107 100 = 7 ∧ elapsed .default 101 100 = 1 ∧
    elapsed .default 108 100 = 8 ∧ elapsed .default 102 100 = 2 := by decide

theorem witness_SchedIdlesOrSendsHeadEntry :
    State.reset.qdepth = 0 ∧ 0 < (sT .ble2 100).qdepth ∧ elapsed .default 108 100 = 8 ∧ elapsed .default 102 100 = 2 ∧
    elapsed .default 10101 100 = 10001 ∧ elapsed .default 10100 100 = 10000 := by decide

theorem witness_SchedNeverSendsWithinInterval :
    exec (.sched 108) (sT .ble2 100) = .next (sched 108 (sT .ble2 100)) ∧
    (sched 108 (sT .ble2 100)).tx ≠ (sT .ble2 100).tx :=
  ⟨rfl, fun h => nomatch h⟩

theorem witness_PairTimeoutClearsPairingAfterWindow :
    elapsed .default 61001 1000 = 60001 ∧ elapsed .default 61000 1000 = 60000 := by decide

theorem witness_RefusedCallsChangeNothing : 5 ≤ (5 : Byte).toNat ∧ 5 ≤ (255 : Byte).toNat := by decide

theorem witness_StartPairStop :
    Mode.ble1 ≠ .usb ∧ Mode.dongle ≠ .usb ∧ Mode.dongle ≠ sF.activeMode ∧ State.reset.activeMode = .usb ∧
    sF.activeMode ≠ .usb := by decide

theorem witness_SubmitIsGuardedPush : State.reset.connected = false ∧ sInv.connected = true := by decide

theorem witness_StepRunsTheDecodedInstruction :
    sInv.pending = [.command 0x05 { t := 108 }] ∧
    decode sInv.ctx (.command 0x05 { t := 108 }) = .ok (.sched 108) ∧
    decode State.reset.ctx (.rxFrame []) = .error .notAFrame ∧ State.reset.pending = [] := ⟨rfl, rfl, rfl, rfl⟩

theorem witness_DecodeOfEncodeIsIdentity :
    Params.default.Legal ∧ (Instr.rxbSyncLenBad 0x1F).wf .default = true ∧
    (Instr.rxbSyncLenBad 0x1F).selectedIn (ctxIn .syncSeen 1 .usb) = true ∧
    (Instr.frmGeneric 2 4 (List.replicate 28 0)).wf .default = true ∧ (Instr.encNkro (List.replicate 32 0)).wf .default = true ∧
    (Instr.encStart 4).wf .default = true ∧ (Instr.tick (2 ^ 32 - 1) [0x55]).wf .default = true :=
  ⟨legal_default, by decide, by decide, by decide, by decide, by decide, by decide⟩

theorem witness_OnlyReceivedBytesChangeTheParser :
    exec (.tick 0 []) State.reset = .next (tick 0 [] State.reset) ∧ (Instr.tick 0 []).format ≠ .rxbyte ∧
    ∀ t bytes, Instr.tick 0 [] = .tick t bytes → bytes = [] :=
  ⟨rfl, by decide, fun _ _ h => by cases h; rfl⟩

/-- For HistoriesOnlyGrow and OnlyLinkOperationsChangeTheMode. -/
theorem witness_AnyNextState :
    exec .pop sQ4 = .next (giveResult (.popped (some ⟨.keyboard, key 1⟩)) (dequeue sQ4)) := rfl

/-- A scheduler with a burst, one without at exactly 10000 ms, an instruction given no reading, a burst by itself. -/
theorem witness_BlockingTimeIsBounded :
    (sT .ble2 100).params.Legal ∧
    exec (.sched 10101) (sT .ble2 100) = .next (sched 10101 (sT .ble2 100)) ∧
    busyTime (.sched 10101) (sT .ble2 100) = 10 ∧
    exec (.sched 10100) (sT .ble2 100) = .next (sched 10100 (sT .ble2 100)) ∧
    elapsed .default 10100 (sT .ble2 100).lastActivityTime = 10000 ∧
    (sched 10100 (sT .ble2 100)).tx ≠ (sT .ble2 100).tx ∧
    exec .pop sQ4 = .next (giveResult (.popped (some ⟨.keyboard, key 1⟩)) (dequeue sQ4)) ∧ clockOf .pop = none ∧
    exec (.wakeBurst 0) State.reset = .next (giveResult (.resumeAt 10) (wakeBurst 0 State.reset)) :=
  ⟨legal_default, rfl, by decide, rfl, by decide, (by intro h; cases h), rfl, rfl, rfl⟩

theorem witness_PrincipalsChangeOnlyTheirRegisters :
    mayInvoke .transmitScheduler (.sched 108) = true ∧
    exec (.sched 108) (sT .ble2 100) = .next (sched 108 (sT .ble2 100)) ∧
    Reg.connected ∉ Principal.transmitScheduler.mayChange ∧ Reg.qtail ∉ Principal.transmitScheduler.mayChange ∧
    Reg.ledState ∉ Principal.linkController.mayChange :=
  ⟨by decide, rfl, by decide, by decide, by decide⟩

end Sys2Proof.Tests
end

/-! The encoding family (spec/30_encoding.md): the bytes of a keyboard report frame. -/

namespace Sys2Proof.Proofs

open Sys2Proof.Machine

/-- No free value (log 38) stands in for a byte when the data has exactly the bytes asked for. -/
@[simp] theorem firstBytes_length_self (data : List Byte) : firstBytes data.length data = data := by
  refine List.ext_getElem (by simp [firstBytes]) fun i _ hi => ?_
  simp [firstBytes, hi]

/-- R67, R122: a payload of the keyboard length follows the sub-header unchanged. -/
theorem encodeKbd_of_length {payload : List Byte} (h : payload.length = kbdPayloadLen) :
    encodeKbd payload = 0x55 :: 0x09 :: 0x01 :: payload := by
  rw [encodeKbd, ← h, firstBytes_length_self]
  rfl

/-- `ENC.KBD` answers with the keyboard frame of its payload and touches the results alone. -/
theorem exec_encKbd (payload : List Byte) (s : State) :
    exec (.encKbd payload) s = .next { s with results := s.results ++ [.frame (encodeKbd payload)] } := rfl

/-- Settles O22: the 8 payload bytes follow the fixed sub-header, by the row's meaning and the bytes of its frame. -/
theorem keyboardFrameBytes : Obligations.KeyboardFrameBytes := by
  intro s p0 p1 p2 p3 p4 p5 p6 p7
  rw [exec_encKbd, encodeKbd_of_length rfl]

end Sys2Proof.Proofs

/-! The parser family (spec/40_parser.md): the byte-class rows where their conditions hold, the completion of a frame
and the row its bytes decode to, and the status frame received byte by byte. -/

namespace Sys2Proof.Proofs

open Sys2Proof.Machine Sys2Proof.Safety

/-! ## The byte-class rows where their conditions hold -/

section Rows

variable {s : State} {b : Byte}

theorem lenByteBad_eq_false {p : Params} (hlo : 2 ≤ b.toNat) (hhi : b.toNat ≤ p.maxFrameLen)
    (hfit : b.toNat + 2 ≤ p.rxBufCap) : lenByteBad p b = false := by
  rw [← Bool.not_eq_true, lenByteBad_iff, minFrameLen]
  omega

theorem exec_rxbReadySync (hs : s.pstate = .ready) : exec .rxbReadySync s = .next (rxStart s) :=
  congrArg _ (if_pos hs)

theorem exec_rxbReadyNoise (hs : s.pstate = .ready) (hb : b ≠ syncByte) :
    exec (.rxbReadyNoise b) s = .next (raiseDrop (.noise b) s) :=
  congrArg _ (if_pos ⟨hs, hb⟩)

theorem exec_rxbSyncSync (hs : s.pstate = .syncSeen) : exec .rxbSyncSync s = .next s :=
  congrArg _ (if_pos hs)

theorem exec_rxbSyncLenBad (hs : s.pstate = .syncSeen) (hb : b ≠ syncByte) (hl : lenByteBad s.params b = true) :
    exec (.rxbSyncLenBad b) s = .next (raiseReject .badLen b s) :=
  congrArg _ (if_pos ⟨hs, hb, hl⟩)

theorem exec_rxbSyncLenOk (hs : s.pstate = .syncSeen) (hb : b ≠ syncByte) (hl : lenByteBad s.params b = false) :
    exec (.rxbSyncLenOk b) s = .next (rxLenOk b s) :=
  congrArg _ (if_pos ⟨hs, hb, hl⟩)

theorem exec_rxbLenCmdBad (hs : s.pstate = .lenSeen) (hb : b.toNat > s.params.cmdMax) :
    exec (.rxbLenCmdBad b) s = .next (raiseReject .badCmd b s) :=
  congrArg _ (if_pos ⟨hs, hb⟩)

theorem exec_rxbLenCmdOk (hs : s.pstate = .lenSeen) (hb : b.toNat ≤ s.params.cmdMax) :
    exec (.rxbLenCmdOk b) s = .next (rxCmdOk b s) :=
  congrArg _ (if_pos ⟨hs, hb⟩)

theorem exec_rxbCmdWmBad (hs : s.pstate = .cmdSeen) (hb : b.toNat > s.params.workmodeMax) :
    exec (.rxbCmdWmBad b) s = .next (raiseReject .badWorkmode b s) :=
  congrArg _ (if_pos ⟨hs, hb⟩)

theorem exec_rxbCmdWmOk (hs : s.pstate = .cmdSeen) (hb : b.toNat ≤ s.params.workmodeMax) :
    exec (.rxbCmdWmOk b) s = .next (rxWmOk b s) :=
  congrArg _ (if_pos ⟨hs, hb⟩)

theorem exec_rxbPayData (hs : s.pstate = .awaitingPayload) (hi : s.rxidx < s.params.rxBufCap) :
    exec (.rxbPayData b) s = .next (rxData b s) :=
  congrArg _ (if_pos ⟨hs, hi⟩)

/-- R92: the partial buffer is discarded and SYNC alone is stored. -/
theorem rxStart_eq (s : State) : rxStart s = { s with pstate := .syncSeen, rxidx := 1, rxbuf := [(0, syncByte)] } := by
  simp [rxStart, setPState, rxStore, setRxidx, memWrite, memBelow]

end Rows

/-- Settles O3: the row starts a frame, which stores SYNC alone. -/
theorem readySyncByteStartsFrame : Obligations.ReadySyncByteStartsFrame := by
  intro s hs
  exact ⟨by rw [exec_rxbReadySync hs, rxStart_eq], (execRxbReadySync_eq s).symm⟩

/-- Settles O4: the row raises the drop and does nothing else. -/
theorem readyOtherByteIsDropped : Obligations.ReadyOtherByteIsDropped :=
  fun s b hs hb => ⟨exec_rxbReadyNoise hs hb, (execRxbReadyNoise_eq s b).symm⟩

/-- Settles O5: the row has no effect, and RXBYTE does what the row does. -/
theorem syncSeenAbsorbsRepeatedSync : Obligations.SyncSeenAbsorbsRepeatedSync :=
  fun s hs => ⟨exec_rxbSyncSync hs, (execRxbSyncSync_eq s).symm.trans (exec_rxbSyncSync hs)⟩

/-- Settles O6: R95's test picks the local reset or the store at index 1. -/
theorem syncSeenRejectsOrStoresLength : Obligations.SyncSeenRejectsOrStoresLength := by
  intro s b hs hb
  refine ⟨fun hbad => ⟨?_, (execRxbSyncLenBad_eq s b).symm⟩, fun hlo hhi hfit => ?_⟩
  · rw [exec_rxbSyncLenBad hs hb ((lenByteBad_iff b _).2 hbad), raiseReject_eq]
  · have hrow := exec_rxbSyncLenOk hs hb (lenByteBad_eq_false hlo hhi hfit)
    exact ⟨_, hrow, (execRxbSyncLenOk_eq s b).symm.trans hrow, rfl, rfl, rxAt_rxStore_same s b 1,
      rxAt_rxStore_below s b Nat.zero_lt_one, rfl⟩

/-- Settles O7: R98's test picks the local reset or the store at index 2. -/
theorem lenSeenRejectsOrStoresCommand : Obligations.LenSeenRejectsOrStoresCommand := by
  intro s b hs
  refine ⟨fun hbad => ⟨?_, (execRxbLenCmdBad_eq s b).symm⟩, fun hok => ?_⟩
  · rw [exec_rxbLenCmdBad hs hbad, raiseReject_eq]
  · have hrow := exec_rxbLenCmdOk hs hok
    exact ⟨_, hrow, (execRxbLenCmdOk_eq s b).symm.trans hrow, rfl, rfl, rxAt_rxStore_same s b 2,
      fun _ hi => rxAt_rxStore_below s b hi, rfl⟩

/-- Settles O8: the row makes the local reset. -/
theorem cmdSeenRejectsBadWorkmode : Obligations.CmdSeenRejectsBadWorkmode := by
  intro s b hs hb
  exact ⟨by rw [exec_rxbCmdWmBad hs hb, raiseReject_eq], (execRxbCmdWmBad_eq s b).symm⟩

/-! ## The buffer bound -/

/-- R15: no byte is listed at an index from the capacity on. -/
theorem listed_lt_cap {s : State} (h : ParserInv s) {c : Host.Cell} (hc : c ∈ s.rxbuf) :
    c.1 < s.params.rxBufCap := by
  have hlt : c.1 < s.rxidx := List.mem_range.1 (h.listed ▸ List.mem_map_of_mem hc)
  exact hlt.trans_le h.bounded

/-- Settles O14: the receive drain keeps the parser invariant, by induction over the bytes, and the parameters. -/
theorem bufferIndexNeverExceedsCapacity : Obligations.BufferIndexNeverExceedsCapacity := by
  intro s bytes hp h
  have hinv := rxBytesIn_parserInv s bytes hp h
  rw [← (rxBytesIn_same s bytes).params_eq]
  exact ⟨_, execAll_rxbyte s bytes, hinv.bounded, fun _ => listed_lt_cap hinv⟩

/-! ## A payload byte and the completion of a frame -/

section Completion

variable {s : State} {b : Byte}

/-- R105: a frame that lacks bytes stays. -/
theorem checkComplete_of_ne (h : s.rxidx ≠ (rxAt s 1).toNat + 2) : checkComplete s = s := if_neg h

/-- R105: a frame that has LEN + 2 bytes is done. -/
theorem checkComplete_of_eq (h : s.rxidx = (rxAt s 1).toNat + 2) :
    checkComplete s = parserToReady (frameDone (rxBytes s s.rxidx) s) := by
  rw [h]; exact if_pos h

/-- R103: a payload byte that is not the last is stored. -/
theorem rxData_of_ne (h1 : 1 < s.rxidx) (h : s.rxidx + 1 ≠ (rxAt s 1).toNat + 2) :
    rxData b s = rxStore s.rxidx b s :=
  checkComplete_of_ne (by rwa [rxAt_rxStore_below s b h1])

/-- A completed frame does the same whatever the parser held, once the parser is Ready and empty. -/
theorem parserToReady_frameDone_of_parser (s : State) (f : List Byte) (st : PState) (n : Nat) (m : List Host.Cell) :
    parserToReady (frameDone f { s with pstate := st, rxidx := n, rxbuf := m }) = parserToReady (frameDone f s) := by
  rw [frameDone_of_parser, parserToReady_eq, parserToReady_eq]

/-- R103, R105: the last payload byte completes the frame of the stored bytes and itself, whose effect is that of
`FrameDone` on the state before it, and the parser is Ready and empty. -/
theorem rxData_of_eq (h1 : 1 < s.rxidx) (h : s.rxidx + 1 = (rxAt s 1).toNat + 2) :
    rxData b s = parserToReady (frameDone (rxBytes s s.rxidx ++ [b]) s) := by
  have hdone : (rxStore s.rxidx b s).rxidx = (rxAt (rxStore s.rxidx b s) 1).toNat + 2 := by
    rwa [rxAt_rxStore_below s b h1]
  rw [rxData, checkComplete_of_eq hdone, rxStore_rxidx, rxBytes_rxStore]
  exact parserToReady_frameDone_of_parser s _ _ _ _

/-- A buffer of at least four bytes holds the fixed bytes of a frame and a payload of the others. -/
theorem rxBytes_eq_header_append (s : State) (k : Nat) :
    rxBytes s (k + 4) =
      rxAt s 0 :: rxAt s 1 :: rxAt s 2 :: rxAt s 3 :: (List.range k).map fun i => rxAt s (4 + i) := by
  rw [rxBytes, Nat.add_comm, List.range_add, List.map_append, List.map_map]
  rfl

/-- R63, R74: a frame with a legal header and as many bytes as its LEN says decodes to a row, and the row does what
`FrameDone` does with the frame. -/
theorem decodeFrame_runs_frameDone {c : DecodeCtx} {len cmd wm : Byte} {payload : List Byte}
    (hlen : frameLenLegal c.params len.toNat = true) (hcount : payload.length + 2 = len.toNat)
    (hcmd : cmd.toNat ≤ c.params.cmdMax) (hwm : wm.toNat ≤ c.params.workmodeMax) (s : State) :
    ∃ i, decodeFrame c (syncByte :: len :: cmd :: wm :: payload) = .ok i ∧
      exec i s = .next (frameDone (syncByte :: len :: cmd :: wm :: payload) s) := by
  have hof : len = BitVec.ofNat 8 (payload.length + 2) := by rw [hcount, BitVec.ofNat_toNat, BitVec.setWidth_eq]
  simp only [decodeFrame, ne_eq, not_true_eq_false, if_false, hlen, hcount, not_lt.2 hcmd, not_lt.2 hwm,
    Bool.true_eq_false]
  rw [hof]
  split
  next d =>
    split_ifs with hactive hconn hled
    · exact ⟨.frmStatusConn wm d, rfl, by rw [hconn]; rfl⟩
    · exact ⟨.frmStatusLed wm d, rfl, by rw [hled]; rfl⟩
    · exact ⟨.frmStatusOther cmd wm d, rfl, rfl⟩
    · exact ⟨.frmStatusStale cmd wm d, rfl, rfl⟩
  · exact ⟨_, rfl, rfl⟩

end Completion

/-- Settles O10: the invariant leaves room for the byte. If it is not the last it is stored; if it is, the invariant
makes the buffer a frame with a legal header, which decodes to a row that does what completing it does. -/
theorem payloadByteIsStoredAndCompletesFrame : Obligations.PayloadByteIsStoredAndCompletesFrame := by
  intro s b hp ⟨_, _, hphase⟩ hs
  simp only [ParserPhase, hs] at hphase
  obtain ⟨h4, hlt, ⟨⟨hsync, hlen⟩, hcmd⟩, hwm⟩ := hphase
  obtain ⟨_, _, hfit, _⟩ := (frameLenLegal_iff _ _).1 hlen
  have hrow := exec_rxbPayData (b := b) hs (by omega)
  refine ⟨_, hrow, (execRxbPayData_eq s b).symm.trans hrow, fun hne => ?_, fun heq => ?_⟩
  · rw [rxData_of_ne (by omega) hne]
    exact ⟨hs, rfl, rxAt_rxStore_same s b _, fun _ hi => rxAt_rxStore_below s b hi, rfl⟩
  · obtain ⟨k, hk⟩ := Nat.exists_eq_add_of_le' h4
    obtain ⟨i, hdecode, hexec⟩ : ∃ i, decodeFrame s.ctx (rxBytes s s.rxidx ++ [b]) = .ok i ∧
        exec i s = .next (frameDone (rxBytes s s.rxidx ++ [b]) s) := by
      rw [hk, rxBytes_eq_header_append, hsync]
      exact decodeFrame_runs_frameDone hlen (by simp; omega) hcmd hwm s
    exact ⟨i, _, hdecode, hexec, by rw [rxData_of_eq (by omega) heq, parserToReady_eq]⟩

/-! ## Status frames -/

section Status

variable {s : State} {c w : Byte} (d : Byte)

/-- R106, R107: a frame with LEN 3 emits its event and is interpreted. -/
theorem frameDone_status :
    frameDone [0x55, 3, c, w, d] s =
      interpretStatus [0x55, 3, c, w, d] c w d (emit (.frameDone [0x55, 3, c, w, d]) s) := rfl

/-- R108: the stale filter. -/
theorem frameDone_stale (hw : w ≠ s.activeMode.code) :
    frameDone [0x55, 3, c, w, d] s =
      { s with events := s.events ++ [.frameDone [0x55, 3, c, w, d], .drop (.stale [0x55, 3, c, w, d])] } := by
  rw [frameDone_status, interpretStatus, emit_activeMode, if_pos hw]
  simp [raiseDrop, emit]

/-- R109. -/
theorem frameDone_connectivity :
    frameDone [0x55, 3, 0, s.activeMode.code, d] s =
      applyConnectivity d (emit (.frameDone [0x55, 3, 0, s.activeMode.code, d]) s) := by
  rw [frameDone_status, interpretStatus, emit_activeMode, if_neg (not_not.2 rfl)]
  exact if_pos rfl

/-- R110. -/
theorem frameDone_leds :
    frameDone [0x55, 3, 1, s.activeMode.code, d] s =
      applyLeds d (emit (.frameDone [0x55, 3, 1, s.activeMode.code, d]) s) := by
  rw [frameDone_status, interpretStatus, emit_activeMode, if_neg (not_not.2 rfl), if_neg (by decide)]
  exact if_pos rfl

/-- R111. -/
theorem frameDone_ignored (h0 : c ≠ 0#8) (h1 : c ≠ 1#8) :
    frameDone [0x55, 3, c, s.activeMode.code, d] s =
      raiseDrop (.ignoredCmd [0x55, 3, c, s.activeMode.code, d])
        (emit (.frameDone [0x55, 3, c, s.activeMode.code, d]) s) := by
  rw [frameDone_status, interpretStatus, emit_activeMode, if_neg (not_not.2 rfl), if_neg h0, if_neg h1]

end Status

/-- Settles O17: the row's frame is a status frame of CMD 1 for the active mode. -/
theorem ledFrameSetsLedState : Obligations.LedFrameSetsLedState :=
  fun _ d => congrArg _ (frameDone_leds d)

/-! ## A status frame received byte by byte -/

/-- A frame partly received: the parser in `st`, with the bytes `f` stored and no other. -/
def partlyReceived (st : PState) (f : List Byte) (s : State) : State :=
  { s with pstate := st, rxidx := f.length, rxbuf := (List.range f.length).zip f }

/-- What a byte-class row does, where it does what RXBYTE does with a byte. -/
theorem rxByte_of_row {s u : State} {b : Byte} {i : Instr} (hrow : exec i s = .next u)
    (hbyte : exec i s = .next (rxByte b s)) : rxByte b s = u :=
  Host.Outcome.next.inj (hbyte.symm.trans hrow)

/-- R92, R96, R99, R102: the fixed bytes of a status frame, received in Ready, are stored one after another. -/
theorem rxBytesIn_statusHeader {s : State} {c w : Byte} (hp : s.params.Legal) (hs : s.pstate = .ready)
    (hc : c.toNat ≤ 2) (hw : w.toNat ≤ 4) :
    rxBytesIn [0x55, 3, c, w] s = partlyReceived .awaitingPayload [0x55, 3, c, w] s := by
  have hsync : rxByte 0x55 s = partlyReceived .syncSeen [0x55] s :=
    (rxByte_of_row (exec_rxbReadySync hs) (execRxbReadySync_eq s)).trans (rxStart_eq s)
  have hlen : rxByte 3 (partlyReceived .syncSeen [0x55] s) = partlyReceived .lenSeen [0x55, 3] s :=
    rxByte_of_row (exec_rxbSyncLenOk rfl (by decide)
      (lenByteBad_eq_false (by decide) hp.maxFrameLen_range.1 hp.rxBufCap_min)) (execRxbSyncLenOk_eq _ 3)
  have hcmd : rxByte c (partlyReceived .lenSeen [0x55, 3] s) = partlyReceived .cmdSeen [0x55, 3, c] s :=
    rxByte_of_row (exec_rxbLenCmdOk rfl (hc.trans_eq hp.cmdMax_eq.symm)) (execRxbLenCmdOk_eq _ c)
  have hwm : rxByte w (partlyReceived .cmdSeen [0x55, 3, c] s) =
      checkComplete (partlyReceived .awaitingPayload [0x55, 3, c, w] s) :=
    rxByte_of_row (exec_rxbCmdWmOk (s := partlyReceived .cmdSeen [0x55, 3, c] s) rfl
      (hw.trans_eq hp.workmodeMax_eq.symm)) (execRxbCmdWmOk_eq _ w)
  rw [rxBytesIn_cons, hsync, rxBytesIn_cons, hlen, rxBytesIn_cons, hcmd, rxBytesIn_cons, hwm]
  exact checkComplete_of_ne (s := partlyReceived .awaitingPayload [0x55, 3, c, w] s) (show 4 ≠ 3 + 2 by decide)

/-- R103, R105: the fifth byte completes the frame. -/
theorem rxByte_lastOfStatusFrame {s : State} (c w d : Byte) (hp : s.params.Legal) :
    rxByte d (partlyReceived .awaitingPayload [0x55, 3, c, w] s) =
      parserToReady (frameDone [0x55, 3, c, w, d] s) := by
  rw [rxByte_of_row (exec_rxbPayData (s := partlyReceived .awaitingPayload [0x55, 3, c, w] s) rfl hp.rxBufCap_min)
    (execRxbPayData_eq _ d), rxData_of_eq (show 1 < 4 by decide) (show 4 + 1 = 3 + 2 from rfl)]
  exact parserToReady_frameDone_of_parser s _ _ _ _

/-- A parser that is Ready and empty before a frame is done is so after it. -/
theorem parserToReady_frameDone_of_ready {s : State} (f : List Byte) (hs : s.pstate = .ready) (hi : s.rxidx = 0)
    (hb : s.rxbuf = []) : parserToReady (frameDone f s) = frameDone f s := by
  rw [parserToReady_eq, ← frameDone_of_parser, ← hs, ← hi, ← hb]

/-- The five bytes of a status frame, received in Ready one at a time, do what `FrameDone` does with the frame. -/
theorem rxBytesIn_statusFrame {s : State} {c w : Byte} (d : Byte) (hp : s.params.Legal) (hs : s.pstate = .ready)
    (hi : s.rxidx = 0) (hb : s.rxbuf = []) (hc : c.toNat ≤ 2) (hw : w.toNat ≤ 4) :
    rxBytesIn [0x55, 3, c, w, d] s = frameDone [0x55, 3, c, w, d] s :=
  calc rxBytesIn [0x55, 3, c, w, d] s
    _ = rxByte d (rxBytesIn [0x55, 3, c, w] s) := rfl
    _ = parserToReady (frameDone [0x55, 3, c, w, d] s) := by
      rw [rxBytesIn_statusHeader hp hs hc hw, rxByte_lastOfStatusFrame c w d hp]
    _ = frameDone [0x55, 3, c, w, d] s := parserToReady_frameDone_of_ready _ hs hi hb

/-- Settles O21: the five bytes do what `FrameDone` does with the frame, which filters by WORKMODE and then dispatches
on CMD. -/
theorem statusFrameIsAppliedIffForActiveMode : Obligations.StatusFrameIsAppliedIffForActiveMode := by
  intro s c w d hp hs hi hb hc hw
  have hrun := execAll_rxbyte s [0x55, 3, c, w, d]
  rw [rxBytesIn_statusFrame d hp hs hi hb hc hw] at hrun
  refine ⟨_, hrun, frameDone_stale d, ?_, ?_, ?_⟩
  · rintro rfl rfl
    rw [frameDone_connectivity]
    exact ⟨rfl, decide_eq_true⟩
  · rintro rfl rfl
    rw [frameDone_leds]
    rfl
  · rintro rfl rfl
    rw [frameDone_ignored d (by decide) (by decide)]
    rfl

end Sys2Proof.Proofs

/-! The encoder family (spec/41_encoder.md): the pairing frame and the stop frame. -/

namespace Sys2Proof.Proofs

open Sys2Proof.Machine

/-- For a mode that names a profile, `ENC.PAIR` answers with the pairing frame and touches the results alone. -/
theorem exec_encPair_of_profile {m : Byte} {mode : Mode} (h : profileOf m = some mode) (s : State) :
    exec (.encPair m) s = .next { s with results := s.results ++ [.frame (encodePair m)] } := by
  change execEncPair m s = _
  rw [execEncPair, h]
  rfl

/-- `ENC.STOP` answers with the stop frame and touches the results alone. -/
theorem exec_encStop (s : State) :
    exec .encStop s = .next { s with results := s.results ++ [.frame encodeStop] } := rfl

/-- Settles O25: a mode 1 to 4 names a profile, for which the row answers with the pairing frame; the stop row has no
condition. -/
theorem pairAndStopFrameBytes : Obligations.PairAndStopFrameBytes := by
  intro s m hlo hhi
  obtain ⟨_, hm⟩ := Option.isSome_iff_exists.1 ((profileOf_isSome m).2 ⟨hlo, hhi⟩)
  exact ⟨exec_encPair_of_profile hm s, exec_encStop s⟩

end Sys2Proof.Proofs

/-! The queue family (spec/42_queue.md): PUSH on a queue with room, POP. -/

namespace Sys2Proof.Proofs

open Sys2Proof.Machine

/-- R141: a PUSH of a legal length with room in the queue takes the acting arm and answers true. -/
theorem exec_push_ok {s : State} {ty : ReportType} {payload : List Byte}
    (hlegal : pushLenLegal s.params ty payload.length = true) (hroom : s.qdepth < s.params.queueCap) :
    exec (.push ty payload) s = .next (giveResult (.pushed true) (enqueue ⟨ty, payload⟩ s)) := by
  change execPush ty payload s = _
  rw [execPush, pushReport_ok s ty payload hlegal hroom]

/-- R143: a POP of a queue that holds an entry takes the acting arm and answers with the slot at `qhead`. -/
theorem exec_pop_of_pos {s : State} (h : 0 < s.qdepth) :
    exec .pop s = .next (giveResult (.popped (some (slotAt s s.qhead))) (dequeue s)) := by
  change execPop s = _
  rw [execPop, popReport, if_neg h.ne']

/-- R144: a POP of an empty queue answers with nothing and touches the results alone. -/
theorem exec_pop_of_empty {s : State} (h : s.qdepth = 0) :
    exec .pop s = .next { s with results := s.results ++ [.popped none] } := by
  change execPop s = _
  rw [execPop, popReport, if_pos h]
  rfl

/-- The result history is not looked at where a slot is read. -/
@[simp] theorem slotAt_giveResult (r : Result) (s : State) (a : Nat) : slotAt (giveResult r s) a = slotAt s a := rfl

/-- Settles O28: the report is legal and there is room, so the acting arm runs; it writes the slot at `qtail` and no
other. -/
theorem pushWritesTailSlot : Obligations.PushWritesTailSlot := by
  intro s ty payload hlo hhi hkbd hroom
  have hlegal := (pushLenLegal_iff ty s.params payload.length).2 ⟨hlo, hhi, hkbd⟩
  refine ⟨_, exec_push_ok hlegal hroom, rfl, ?_, fun a ha => ?_, rfl, rfl, rfl⟩
  · rw [slotAt_giveResult, slotAt_enqueue, if_pos rfl]
  · rw [slotAt_giveResult, slotAt_enqueue, if_neg ha]

/-- Settles O30: with an entry the acting arm runs, which vacates the slot at `qhead` and no other; without one, the
other arm. -/
theorem popReturnsOldestEntryOrNothing : Obligations.PopReturnsOldestEntryOrNothing :=
  fun s => ⟨fun hpos => ⟨_, exec_pop_of_pos hpos, rfl, rfl, rfl, fun _ ha => slotAt_dequeue_other s ha, rfl⟩,
    exec_pop_of_empty⟩

end Sys2Proof.Proofs

/-! The scheduler family (spec/43_scheduler.md): the rate limit and the sending arm. -/

namespace Sys2Proof.Proofs

open Sys2Proof.Machine

/-- R156: the row is the scheduler's function. -/
theorem exec_sched (t : Nat) (s : State) : exec (.sched t) s = .next (sched t s) := rfl

section Sched

variable {s : State} {t : Nat}

/-- R162: within the minimum interval nothing happens. -/
theorem sched_of_rateLimited (h : rateLimited s t = true) : sched t s = s := by
  rw [sched, if_pos h, ite_self]

/-- R159: with an entry queued and the interval past, the sending arm runs. -/
theorem sched_of_due (hd : s.qdepth ≠ 0) (h : rateLimited s t = false) : sched t s = sendHead t s := by
  rw [sched, if_neg hd, h, if_neg Bool.false_ne_true]

/-- R120, R121: every report's frame begins with SYNC, so none is empty. -/
theorem encodeReport_ne_nil (e : Entry) : encodeReport e ≠ [] := by
  obtain ⟨ty, payload⟩ := e
  cases ty <;> exact List.cons_ne_nil _ _

/-- The sending arm writes at least a byte. -/
theorem sendHead_tx_ne (hd : s.qdepth ≠ 0) : (sendHead t s).tx ≠ s.tx := by
  rw [sendHead_eq s t hd]
  simp [encodeReport_ne_nil]

/-- The sending arm takes one entry out of the queue. -/
theorem sendHead_qdepth (hd : s.qdepth ≠ 0) : (sendHead t s).qdepth + 1 = s.qdepth := by
  rw [sendHead_eq s t hd]
  exact Nat.sub_one_add_one hd

end Sched

/-- Settles O35: less than the interval is the rate limit's condition; at exactly the interval it is false and the sending
arm runs. -/
theorem rateLimitedSchedDoesNothing : Obligations.RateLimitedSchedDoesNothing := by
  intro s t hpos
  have hd : s.qdepth ≠ 0 := hpos.ne'
  refine ⟨fun hlt => ?_, fun heq => ?_⟩
  · rw [exec_sched, sched_of_rateLimited ((rateLimited_iff s t).2 hlt)]
  · have hsend : sched t s = sendHead t s := sched_of_due hd ((rateLimited_eq_false s t).2 heq.ge)
    exact ⟨_, by rw [exec_sched, hsend], sendHead_tx_ne hd, sendHead_qdepth hd⟩

end Sys2Proof.Proofs

/-! The link family (spec/44_link_ops.md): START for the active mode, ISCONN. -/

namespace Sys2Proof.Proofs

open Sys2Proof.Machine

/-- R177 to R181: the row is the link controller's function. -/
theorem exec_start (m : Byte) (t : Nat) (s : State) : exec (.start m t) s = .next (start m t s) := rfl

/-- R177: a mode that names no profile is refused. -/
theorem start_of_no_profile {m : Byte} (h : profileOf m = none) (t : Nat) (s : State) : start m t s = s := by
  rw [start, h]

/-- R178: the guard of the active profile. -/
theorem start_of_active_profile {m : Byte} {s : State} (h : profileOf m = some s.activeMode) (t : Nat) :
    start m t s = s := by
  rw [start, h]
  exact if_pos rfl

/-- Settles O41: USB names no profile, so START refuses it; any other active mode is stopped by START's guard. -/
theorem redundantStartIsNoOp : Obligations.RedundantStartIsNoOp := by
  intro s t
  have hstart : start s.activeMode.code t s = s := by
    by_cases husb : s.activeMode = .usb
    · rw [husb]
      exact start_of_no_profile rfl t s
    · exact start_of_active_profile (profileOf_code _ husb) t
  rw [exec_start, hstart]

/-- Settles O46: the row's meaning appends one result, the flag, and touches no other field. -/
theorem isconnReadsConnected : Obligations.IsconnReadsConnected := fun _ => rfl

end Sys2Proof.Proofs

/-! The queue (spec/42_queue.md) as a bounded list: PUSH, POP and QCLEAR, runs of pushes, SUBMIT
(spec/45_report_sink.md). -/

namespace Sys2Proof.Proofs

open Sys2Proof.Machine Sys2Proof.Safety

/-- R24, R142: a legal PUSH on a full queue drops its report and answers false. -/
theorem exec_push_full {s : State} {ty : ReportType} {payload : List Byte}
    (hlegal : pushLenLegal s.params ty payload.length = true) (hfull : ¬ s.qdepth < s.params.queueCap) :
    exec (.push ty payload) s = .next (giveResult (.pushed false) (raiseDrop (.queueFull ty) s)) := by
  change execPush ty payload s = _
  rw [execPush, pushReport_full s ty payload hlegal hfull]

theorem queueInv_giveResult {s : State} (h : QueueInv s) (r : Result) : QueueInv (giveResult r s) :=
  queueInv_of_same h rfl rfl rfl rfl rfl

theorem queueInv_raiseDrop {s : State} (h : QueueInv s) (c : DropCause) : QueueInv (raiseDrop c s) :=
  queueInv_of_same h rfl rfl rfl rfl rfl

@[simp] theorem liveEntries_giveResult (r : Result) (s : State) : liveEntries (giveResult r s) = liveEntries s := rfl

/-- R24, R141, R142: a legal PUSH on the bounded list. -/
theorem push_refines_append {s : State} (h : QueueInv s) {ty : ReportType} {payload : List Byte}
    (hlegal : pushLenLegal s.params ty payload.length = true) :
    ∃ u, exec (.push ty payload) s = .next u ∧ QueueInv u ∧ u.params = s.params ∧
      (s.qdepth < s.params.queueCap →
        liveEntries u = liveEntries s ++ [⟨ty, payload⟩] ∧ u.results = s.results ++ [.pushed true]) ∧
      (¬ s.qdepth < s.params.queueCap →
        liveEntries u = liveEntries s ∧ u.results = s.results ++ [.pushed false]) := by
  by_cases hroom : s.qdepth < s.params.queueCap
  · exact ⟨_, exec_push_ok hlegal hroom, queueInv_giveResult (queueInv_enqueue _ h hroom hlegal) _, rfl,
      fun _ => ⟨liveEntries_enqueue _ h hroom, rfl⟩, fun hfull => absurd hroom hfull⟩
  · exact ⟨_, exec_push_full hlegal hroom, queueInv_giveResult (queueInv_raiseDrop h _) _, rfl,
      fun hd => absurd hd hroom, fun _ => ⟨rfl, rfl⟩⟩

/-- R143, R144: POP on the bounded list. -/
theorem pop_refines_tail {s : State} (h : QueueInv s) :
    ∃ u, exec .pop s = .next u ∧ QueueInv u ∧ liveEntries u = (liveEntries s).tail ∧
      u.results = s.results ++ [.popped (liveEntries s).head?] := by
  by_cases hd : s.qdepth = 0
  · exact ⟨_, exec_pop_of_empty hd, queueInv_giveResult h _, by simp [liveEntries_eq_nil, hd],
      by simp [liveEntries_eq_nil, hd]⟩
  · have hpos := Nat.pos_of_ne_zero hd
    refine ⟨_, exec_pop_of_pos hpos, queueInv_giveResult (queueInv_dequeue h hpos) _, ?_, ?_⟩
    · rw [liveEntries_giveResult, liveEntries_dequeue h hpos, List.tail_cons]
    · rw [liveEntries_dequeue h hpos]; rfl

/-- R145: the row is the shared operation. -/
theorem exec_qclear (s : State) : exec .qclear s = .next (clearQueue s) := rfl

/-- R24: a ring whose head is in range has a slot. -/
theorem queueCap_pos {s : State} (h : QueueInv s) : 1 ≤ s.params.queueCap := Nat.one_le_of_lt h.head_lt

/-- Settles O32: one refinement lemma for each operation. -/
theorem ringRefinesBoundedFifo : Obligations.RingRefinesBoundedFifo := by
  intro s h
  rw [liveEntries_length]
  refine ⟨fun ty payload hlegal => ?_, pop_refines_tail h,
    ⟨_, exec_qclear s, queueInv_clearQueue s (queueCap_pos h), liveEntries_clearQueue s⟩⟩
  obtain ⟨u, hu, hinv, -, hroom, hfull⟩ := push_refines_append h hlegal
  exact ⟨u, hu, hinv, hroom, hfull⟩

/-- R148: what pushes one after another leave, from every state with the invariant: the entries for which there is room
are appended, in order, and the others are refused. -/
theorem pushes_fill_room {s : State} (h : QueueInv s) {es : List Entry}
    (hlegal : ∀ e ∈ es, pushLenLegal s.params e.type e.data.length = true) :
    ∃ u, execAll (es.map fun e => .push e.type e.data) s = .next u ∧
      liveEntries u = liveEntries s ++ es.take (s.params.queueCap - s.qdepth) ∧
      u.results = s.results ++ List.replicate (min es.length (s.params.queueCap - s.qdepth)) (.pushed true) ++
        List.replicate (es.length - (s.params.queueCap - s.qdepth)) (.pushed false) := by
  induction es generalizing s with
  | nil => exact ⟨s, rfl, by simp, by simp⟩
  | cons e es ih =>
    obtain ⟨he, hes⟩ := List.forall_mem_cons.1 hlegal
    obtain ⟨u, hu, hinv, hparams, hroom, hfull⟩ := push_refines_append h he
    rw [← hparams] at hes
    obtain ⟨v, hv, hlive, hres⟩ := ih hinv hes
    rw [hparams] at hlive hres
    refine ⟨v, ?_, ?_⟩
    · simpa only [List.map_cons, execAll, hu] using hv
    rw [hlive, hres]
    by_cases hd : s.qdepth < s.params.queueCap
    · obtain ⟨hlu, hru⟩ := hroom hd
      have hdu : u.qdepth = s.qdepth + 1 := by
        rw [← liveEntries_length, hlu, List.length_append, liveEntries_length]; rfl
      have hk : s.params.queueCap - s.qdepth = (s.params.queueCap - (s.qdepth + 1)) + 1 := by omega
      rw [hlu, hru, hdu, hk]
      simp [List.replicate_succ, Nat.succ_min_succ]
    · obtain ⟨hlu, hru⟩ := hfull hd
      have hdu : u.qdepth = s.qdepth := by rw [← liveEntries_length, hlu, liveEntries_length]
      have hk : s.params.queueCap - s.qdepth = 0 := by omega
      rw [hlu, hru, hdu, hk]
      simp [List.replicate_succ]

/-- Settles O33: an empty queue has room for `QUEUE_CAP` entries. -/
theorem overflowKeepsOldestReports : Obligations.OverflowKeepsOldestReports := by
  intro s es h hd hlegal
  have hrun := pushes_fill_room h hlegal
  rwa [liveEntries_eq_nil s hd, hd] at hrun

/-- Settles O29: the length test refuses the first kind, the full test the second. -/
theorem pushRefusesIllegalLengthAndFullQueue : Obligations.PushRefusesIllegalLengthAndFullQueue := by
  intro s ty payload
  refine ⟨fun hbad => ?_, fun hlo hhi hkbd hfull => ?_⟩
  · have hillegal : pushLenLegal s.params ty payload.length = false := by
      rw [← Bool.not_eq_true, pushLenLegal_iff]
      rintro ⟨hlo, hhi, hkbd⟩
      rcases hbad with h0 | hcap | ⟨hty, h8⟩
      · omega
      · omega
      · exact h8 (hkbd hty)
    change execPush ty payload s = _
    rw [execPush, pushReport_bad s ty payload hillegal]
    rfl
  · rw [exec_push_full ((pushLenLegal_iff ty _ _).2 ⟨hlo, hhi, hkbd⟩) (not_lt.2 hfull)]
    rfl

/-- Settles O31: the row is the shared operation, which leaves an empty ring. -/
theorem qclearEmptiesTheQueue : Obligations.QclearEmptiesTheQueue := by
  refine fun s => ⟨rfl, fun u hu => ?_⟩
  cases hu
  exact liveEntries_clearQueue s

/-- R202 to R205: the SUBMIT row of a report type. -/
theorem exec_submit {payload : List Byte} {x : Instr × ReportType}
    (hx : x ∈ [(Instr.submitKbd payload, ReportType.keyboard), (.submitMouse payload, .mouse),
      (.submitExtra payload, .extra), (.submitNkro payload, .nkro)]) (s : State) :
    exec x.1 s = .next (submit x.2 payload s) := by
  simp only [List.mem_cons, List.not_mem_nil, or_false] at hx
  rcases hx with rfl | rfl | rfl | rfl <;> rfl

/-- What a PUSH does before it answers leaves the results. -/
theorem results_pushReport (ty : ReportType) (payload : List Byte) (s : State) :
    (pushReport ty payload s).2.results = s.results := by
  rcases pushReport_cases s ty payload with ⟨c, h⟩ | ⟨-, -, h⟩ <;> rw [h] <;> rfl

/-- Settles O48: the guard is `connected` alone; a SUBMIT that passes it is a PUSH without its answer. -/
theorem submitIsGuardedPush : Obligations.SubmitIsGuardedPush := by
  intro s payload x hx
  rw [exec_submit hx, submit]
  refine ⟨fun hdown => ?_, fun hup => ⟨_, rfl, ?_⟩⟩
  · simp [hdown, raiseDrop, emit]
  · rw [if_pos hup]
    congr 1
    rw [← results_pushReport x.2 payload s]
    rfl

end Sys2Proof.Proofs

/-! The encodings (spec/30_encoding.md): the byte classes, and decoding what was encoded. -/

namespace Sys2Proof.Proofs

open Sys2Proof.Machine

/-! ## The byte classes -/

section ByteClasses

variable {c : DecodeCtx} {b : Byte} {i : Instr}

/-- R61, R96: a LEN byte is stored exactly when it is not SYNC and R95 does not refuse it. -/
theorem lenByteOk_iff (p : Params) : lenByteOk p b = true ↔ b ≠ syncByte ∧ lenByteBad p b = false := by
  have hsync : b ≠ syncByte ↔ b.toNat ≠ 85 := (BitVec.toNat_inj (x := b) (y := syncByte)).not.symm
  simp only [lenByteOk, Bool.and_eq_true, decide_eq_true_eq, frameLenLegal_iff, ← Bool.not_eq_true, lenByteBad_iff,
    minFrameLen, hsync]
  omega

theorem decodeLineByte_ready (hs : c.pstate = .ready) :
    decodeLineByte c b = if b = syncByte then .rxbReadySync else .rxbReadyNoise b := by
  simp only [decodeLineByte, hs]

theorem decodeLineByte_syncSeen_sync (hs : c.pstate = .syncSeen) : decodeLineByte c syncByte = .rxbSyncSync := by
  simp only [decodeLineByte, hs, if_true]

/-- R73 in SyncSeen, with R95's three tests as one. -/
theorem decodeLineByte_syncSeen (hs : c.pstate = .syncSeen) (hb : b ≠ syncByte) :
    decodeLineByte c b = if lenByteBad c.params b = true then .rxbSyncLenBad b else .rxbSyncLenOk b := by
  simp only [decodeLineByte, hs, if_neg hb, lenByteBad_iff, ite_or]

theorem decodeLineByte_lenSeen (hs : c.pstate = .lenSeen) :
    decodeLineByte c b = if b.toNat > c.params.cmdMax then .rxbLenCmdBad b else .rxbLenCmdOk b := by
  simp only [decodeLineByte, hs]

theorem decodeLineByte_cmdSeen (hs : c.pstate = .cmdSeen) :
    decodeLineByte c b = if b.toNat > c.params.workmodeMax then .rxbCmdWmBad b else .rxbCmdWmOk b := by
  simp only [decodeLineByte, hs]

theorem decodeLineByte_awaitingPayload (hs : c.pstate = .awaitingPayload) :
    decodeLineByte c b = if c.rxidx ≥ c.params.rxBufCap then .rxbPayOvf b else .rxbPayData b := by
  simp only [decodeLineByte, hs]

/-- A LEN byte of the bad class: not SYNC, and R95 refuses it. -/
theorem wf_rxbSyncLenBad_iff (p : Params) :
    (Instr.rxbSyncLenBad b).wf p = true ↔ b ≠ syncByte ∧ lenByteBad p b = true := by
  simp only [Instr.wf, Bool.and_eq_true, decide_eq_true_eq, Bool.not_eq_true', ← Bool.not_eq_true, lenByteOk_iff]
  tauto

/-- R73: the byte that is the encoding of a row whose condition holds selects this row. -/
theorem decodeLineByte_of_row (hwf : i.wf c.params = true) (hsel : i.selectedIn c = true)
    (henc : encode c.params i = .lineByte b) : decodeLineByte c b = i := by
  cases i with
  | rxbReadySync =>
    cases henc
    rw [decodeLineByte_ready (of_decide_eq_true hsel), if_pos rfl]
  | rxbReadyNoise b =>
    cases henc
    rw [decodeLineByte_ready (of_decide_eq_true hsel), if_neg (of_decide_eq_true hwf)]
  | rxbSyncSync =>
    cases henc
    exact decodeLineByte_syncSeen_sync (of_decide_eq_true hsel)
  | rxbSyncLenBad b =>
    cases henc
    obtain ⟨hb, hbad⟩ := (wf_rxbSyncLenBad_iff _).1 hwf
    rw [decodeLineByte_syncSeen (of_decide_eq_true hsel) hb, if_pos hbad]
  | rxbSyncLenOk b =>
    cases henc
    obtain ⟨hb, hok⟩ := (lenByteOk_iff _).1 hwf
    rw [decodeLineByte_syncSeen (of_decide_eq_true hsel) hb, hok, if_neg Bool.false_ne_true]
  | rxbLenCmdBad b =>
    cases henc
    rw [decodeLineByte_lenSeen (of_decide_eq_true hsel), if_pos (of_decide_eq_true hwf)]
  | rxbLenCmdOk b =>
    cases henc
    rw [decodeLineByte_lenSeen (of_decide_eq_true hsel), if_neg (not_lt.2 (of_decide_eq_true hwf))]
  | rxbCmdWmBad b =>
    cases henc
    rw [decodeLineByte_cmdSeen (of_decide_eq_true hsel), if_pos (of_decide_eq_true hwf)]
  | rxbCmdWmOk b =>
    cases henc
    rw [decodeLineByte_cmdSeen (of_decide_eq_true hsel), if_neg (not_lt.2 (of_decide_eq_true hwf))]
  | rxbPayOvf b =>
    cases henc
    obtain ⟨hs, hfull⟩ := Bool.and_eq_true_iff.1 hsel
    rw [decodeLineByte_awaitingPayload (of_decide_eq_true hs), if_pos (of_decide_eq_true hfull)]
  | rxbPayData b =>
    cases henc
    obtain ⟨hs, hroom⟩ := Bool.and_eq_true_iff.1 hsel
    rw [decodeLineByte_awaitingPayload (of_decide_eq_true hs), if_neg (not_le.2 (of_decide_eq_true hroom))]
  | _ => cases henc

/-- R73: the row a byte selects has this byte as its encoding, and its condition holds. -/
theorem row_of_decodeLineByte (c : DecodeCtx) (b : Byte) :
    (decodeLineByte c b).wf c.params = true ∧ (decodeLineByte c b).selectedIn c = true ∧
      encode c.params (decodeLineByte c b) = .lineByte b := by
  cases hs : c.pstate with
  | ready =>
    rw [decodeLineByte_ready hs]
    split_ifs with hb
    · exact ⟨rfl, decide_eq_true hs, by rw [hb]; rfl⟩
    · exact ⟨decide_eq_true hb, decide_eq_true hs, rfl⟩
  | syncSeen =>
    by_cases hb : b = syncByte
    · rw [hb, decodeLineByte_syncSeen_sync hs]
      exact ⟨rfl, decide_eq_true hs, rfl⟩
    · rw [decodeLineByte_syncSeen hs hb]
      split_ifs with hbad
      · exact ⟨(wf_rxbSyncLenBad_iff _).2 ⟨hb, hbad⟩, decide_eq_true hs, rfl⟩
      · exact ⟨(lenByteOk_iff _).2 ⟨hb, Bool.eq_false_of_not_eq_true hbad⟩, decide_eq_true hs, rfl⟩
  | lenSeen =>
    rw [decodeLineByte_lenSeen hs]
    split_ifs with hb
    · exact ⟨decide_eq_true hb, decide_eq_true hs, rfl⟩
    · exact ⟨decide_eq_true (not_lt.1 hb), decide_eq_true hs, rfl⟩
  | cmdSeen =>
    rw [decodeLineByte_cmdSeen hs]
    split_ifs with hb
    · exact ⟨decide_eq_true hb, decide_eq_true hs, rfl⟩
    · exact ⟨decide_eq_true (not_lt.1 hb), decide_eq_true hs, rfl⟩
  | awaitingPayload =>
    rw [decodeLineByte_awaitingPayload hs]
    split_ifs with hfull
    · exact ⟨rfl, Bool.and_eq_true_iff.2 ⟨decide_eq_true hs, decide_eq_true hfull⟩, rfl⟩
    · exact ⟨rfl, Bool.and_eq_true_iff.2 ⟨decide_eq_true hs, decide_eq_true (not_le.1 hfull)⟩, rfl⟩

/-- Log 9: a byte-class row receives the byte it encodes as, whether or not its condition holds. -/
theorem exec_byteRow {p : Params} (henc : encode p i = .lineByte b) (s : State) : exec i s = .next (rxByte b s) := by
  cases i with
  | rxbReadySync => cases henc; exact execRxbReadySync_eq s
  | rxbReadyNoise b => cases henc; exact execRxbReadyNoise_eq s b
  | rxbSyncSync => cases henc; exact execRxbSyncSync_eq s
  | rxbSyncLenBad b => cases henc; exact execRxbSyncLenBad_eq s b
  | rxbSyncLenOk b => cases henc; exact execRxbSyncLenOk_eq s b
  | rxbLenCmdBad b => cases henc; exact execRxbLenCmdBad_eq s b
  | rxbLenCmdOk b => cases henc; exact execRxbLenCmdOk_eq s b
  | rxbCmdWmBad b => cases henc; exact execRxbCmdWmBad_eq s b
  | rxbCmdWmOk b => cases henc; exact execRxbCmdWmOk_eq s b
  | rxbPayOvf b => cases henc; exact execRxbPayOvf_eq s b
  | rxbPayData b => cases henc; exact execRxbPayData_eq s b
  | _ => cases henc

/-- R80: a byte-class row is encoded as a byte on the receive line. -/
theorem encode_byteRow (p : Params) (h : i.format = .rxbyte) : ∃ b, encode p i = .lineByte b := by
  cases i <;> cases h <;> exact ⟨_, rfl⟩

/-- R90: the row is the parser's function. -/
theorem exec_rxbyte (b : Byte) (s : State) : exec (.rxbyte b) s = .next (rxByte b s) := rfl

end ByteClasses

/-- Settles O53: a byte selects the row whose condition holds and that encodes as it, and no other such row is there. -/
theorem byteClassesPartitionTheBytes : Obligations.ByteClassesPartitionTheBytes := by
  refine fun c b i => ⟨fun ⟨hwf, hsel, henc⟩ => (decodeLineByte_of_row hwf hsel henc).symm, ?_⟩
  rintro rfl
  exact row_of_decodeLineByte c b

/-- Settles O12: the selected row encodes as the byte, and so it receives it. -/
theorem rxbyteRunsTheRowItsTableSelects : Obligations.RxbyteRunsTheRowItsTableSelects := by
  intro s b
  obtain ⟨-, -, henc⟩ := row_of_decodeLineByte s.ctx b
  rw [exec_rxbyte, exec_byteRow henc]

/-- Settles O13: each of the rows receives a byte, and a received byte changes nothing else. -/
theorem receivedByteTouchesOnlyParserAndStatus : Obligations.ReceivedByteTouchesOnlyParserAndStatus := by
  intro s b i hi
  have hrow : i = .rxbyte b ∨ i.format = .rxbyte := by
    rcases List.mem_cons.1 hi with rfl | hi
    · exact .inl rfl
    · refine .inr ?_
      revert i
      simp [Instr.format]
  rcases hrow with rfl | hrow
  · exact ⟨_, exec_rxbyte b s, rxByte_same s b⟩
  · obtain ⟨b', henc⟩ := encode_byteRow s.params hrow
    exact ⟨_, exec_byteRow henc s, rxByte_same s b'⟩

/-! ## Decoding an encoding -/

section RoundTrip

variable {c : DecodeCtx}

/-- R63, R108: the kinds of a frame with one byte of payload and a legal header. -/
theorem decodeFrame_status {cmd wm : Byte} (d : Byte) (hp : c.params.Legal) (hcmd : cmd.toNat ≤ c.params.cmdMax)
    (hwm : wm.toNat ≤ c.params.workmodeMax) :
    decodeFrame c [syncByte, 3, cmd, wm, d] = .ok
      (if wm ≠ c.activeMode.code then .frmStatusStale cmd wm d
      else if cmd = 0#8 then .frmStatusConn wm d
      else if cmd = 1#8 then .frmStatusLed wm d
      else .frmStatusOther cmd wm d) := by
  have hlen : frameLenLegal c.params 3 = true :=
    (frameLenLegal_iff _ _).2 ⟨by omega, hp.maxFrameLen_range.1, hp.rxBufCap_min, by omega⟩
  simp [decodeFrame, hlen, not_lt.2 hcmd, not_lt.2 hwm]
  split_ifs <;> rfl

/-- R62: the low 8 bits of a number that fits them. -/
theorem toNat_byte {n : Nat} (h : n ≤ 255) : (BitVec.ofNat 8 n).toNat = n :=
  Nat.mod_eq_of_lt (Nat.lt_succ_of_le h)

/-- R63, R112: a frame with a legal header and another number of payload bytes. -/
theorem decodeFrame_generic {cmd wm : Byte} {payload : List Byte} (hp : c.params.Legal) (h1 : payload.length ≠ 1)
    (hlen : frameLenLegal c.params (payload.length + 2) = true) (hcmd : cmd.toNat ≤ c.params.cmdMax)
    (hwm : wm.toNat ≤ c.params.workmodeMax) :
    decodeFrame c (incomingFrame cmd wm payload) = .ok (.frmGeneric cmd wm payload) := by
  have hcount : (BitVec.ofNat 8 (payload.length + 2)).toNat = payload.length + 2 := by
    have := (frameLenLegal_iff _ _).1 hlen
    have := hp.maxFrameLen_range
    exact toNat_byte (by omega)
  simp only [incomingFrame, List.cons_append, List.nil_append, decodeFrame, hcount, hlen, not_lt.2 hcmd, not_lt.2 hwm,
    ne_eq, not_true_eq_false, if_false, Bool.true_eq_false]
  split
  · exact absurd rfl h1
  · rfl

theorem decode_encode_rxframe {i : Instr} (hf : i.format = .rxframe) (hp : c.params.Legal)
    (hwf : i.wf c.params = true) (hsel : i.selectedIn c = true) : decode c (encode c.params i) = .ok i := by
  have hmax := hp.cmdMax_eq
  cases i with
  | frmStatusConn w d =>
    have hw := of_decide_eq_true hsel
    exact (decodeFrame_status d hp (Nat.zero_le _) (of_decide_eq_true hwf)).trans (by simp [hw])
  | frmStatusLed w d =>
    have hw := of_decide_eq_true hsel
    exact (decodeFrame_status d hp (by rw [hmax]; decide) (of_decide_eq_true hwf)).trans (by simp [hw])
  | frmStatusOther cmd w d =>
    have hw := of_decide_eq_true hsel
    simp only [Instr.wf, Bool.and_eq_true, decide_eq_true_eq] at hwf
    obtain ⟨⟨h2, hcmd⟩, hwm⟩ := hwf
    have h0 : cmd ≠ 0#8 := by rintro rfl; exact absurd h2 (by decide)
    have h1 : cmd ≠ 1#8 := by rintro rfl; exact absurd h2 (by decide)
    exact (decodeFrame_status d hp hcmd hwm).trans (by rw [if_neg (not_not.2 hw), if_neg h0, if_neg h1])
  | frmStatusStale cmd w d =>
    simp only [Instr.wf, Bool.and_eq_true, decide_eq_true_eq] at hwf
    exact (decodeFrame_status d hp hwf.1 hwf.2).trans (by rw [if_pos (of_decide_eq_true hsel)])
  | frmGeneric cmd w payload =>
    simp only [Instr.wf, Bool.and_eq_true, decide_eq_true_eq] at hwf
    obtain ⟨⟨⟨h1, hlen⟩, hcmd⟩, hwm⟩ := hwf
    exact decodeFrame_generic hp h1 hlen hcmd hwm
  | _ => cases hf

/-- R123 to R125: the length byte of a raw report frame counts its payload. -/
theorem rawPayload_count {p : Params} {payload : List Byte} (hp : p.Legal) (h : rawPayloadOk p payload = true) :
    (BitVec.ofNat 8 payload.length).toNat = payload.length := by
  simp only [rawPayloadOk, Bool.and_eq_true, decide_eq_true_eq] at h
  exact toNat_byte (h.2.trans hp.payloadCap_range.2)

/-- R27: a clock reading within `TIME_W` bits passes the clock line unchanged. -/
theorem ok_clock {p : Params} {t : Nat} (h : timeOk p t = true) (mk : Nat → Instr) :
    (.ok (mk (t % 2 ^ p.timeW)) : Except DecodeError Instr) = .ok (mk t) := by
  rw [Nat.mod_eq_of_lt (of_decide_eq_true h)]

/-- R123 to R125: the three raw report rows, each with the report type of its request. -/
theorem decodeReportFrame_encodeRaw {p : Params} {ty : ReportType} {payload : List Byte} (hp : p.Legal)
    (hty : ty ≠ .keyboard) (h : rawPayloadOk p payload = true) :
    decodeReportFrame p ty (encodeRaw payload) = .ok
      (match ty with
      | .keyboard => .encKbd payload
      | .mouse => .encMouse payload
      | .extra => .encExtra payload
      | .nkro => .encNkro payload) := by
  cases ty <;> simp [decodeReportFrame, encodeRaw, rawPayload_count hp h, h] at hty ⊢

theorem decode_encode_txframe {i : Instr} (hf : i.format = .txframe) (hp : c.params.Legal)
    (hwf : i.wf c.params = true) : decode c (encode c.params i) = .ok i := by
  cases i with
  | encKbd payload =>
    have h8 : payload.length = 8 := of_decide_eq_true hwf
    simp [encode, decode, encodeKbd_of_length h8, decodeReportFrame, h8]
  | encMouse payload => exact decodeReportFrame_encodeRaw (ty := .mouse) hp (by decide) hwf
  | encExtra payload => exact decodeReportFrame_encodeRaw (ty := .extra) hp (by decide) hwf
  | encNkro payload => exact decodeReportFrame_encodeRaw (ty := .nkro) hp (by decide) hwf
  | encStart m => simp [encode, decode, encodeStart, decodeCommandFrame, hp.deviceName_length]
  | encPair m => rfl
  | encStop => rfl
  | wakeBurst t =>
    change decodeBurst c.params t wakeBurstBytes = _
    rw [decodeBurst, wakeBurstBytes, if_pos rfl]
    exact ok_clock hwf .wakeBurst
  | _ => cases hf

/-- R77: the `len` line of an encoded operation counts its payload line. -/
theorem withPayload_payloadArgs {payload : List Byte} (h : payloadCounted payload = true) (mk : List Byte → Instr) :
    withPayload (payloadArgs payload) mk = .ok (mk payload) :=
  if_pos (toNat_byte (of_decide_eq_true h)).symm

theorem decode_encode_op {i : Instr} (hf : i.format = .op) (hwf : i.wf c.params = true) :
    decode c (encode c.params i) = .ok i := by
  cases i with
  | push ty payload => cases ty <;> exact withPayload_payloadArgs hwf _
  | submitKbd payload => exact withPayload_payloadArgs hwf _
  | submitMouse payload => exact withPayload_payloadArgs hwf _
  | submitExtra payload => exact withPayload_payloadArgs hwf _
  | submitNkro payload => exact withPayload_payloadArgs hwf _
  | sched t => exact ok_clock hwf .sched
  | tick t bytes => exact ok_clock (Bool.and_eq_true_iff.1 hwf).1 (.tick · bytes)
  | pairtmo t => exact ok_clock hwf .pairtmo
  | start m t => exact ok_clock hwf (.start m)
  | pair m t => exact ok_clock hwf (.pair m)
  | stop t => exact ok_clock hwf .stop
  | rxbyte b => rfl
  | pop => rfl
  | qclear => rfl
  | qdepth => rfl
  | isconn => rfl
  | ledq => rfl
  | reservedE => rfl
  | reservedF => rfl
  | _ => cases hf

end RoundTrip

/-- Settles O52: by the four formats of the table. -/
theorem decodeOfEncodeIsIdentity : Obligations.DecodeOfEncodeIsIdentity := by
  intro c i hp hwf hsel
  cases hf : i.format with
  | rxbyte =>
    obtain ⟨b, henc⟩ := encode_byteRow c.params hf
    rw [henc]
    exact congrArg _ (decodeLineByte_of_row hwf hsel henc)
  | rxframe => exact decode_encode_rxframe hf hp hwf hsel
  | txframe => exact decode_encode_txframe hf hp hwf
  | op => exact decode_encode_op hf hwf

end Sys2Proof.Proofs

/-! The invariant of the machine (spec/10_state.md): every instruction keeps it, and so does every step; it holds after
reset. -/

namespace Sys2Proof.Proofs

open Sys2Proof.Machine Sys2Proof.Safety

/-! ## What keeps the invariant -/

section Invariant

variable {s t : State}

/-- The invariant does not look at the event log, the results or what is presented. -/
theorem inv_of_outputs (h : Inv s) (es : List Event) (rs : List Result) (ps : List Fetch) :
    Inv { s with events := es, results := rs, pending := ps } where
  params := h.params
  parser := parserInv_of_same h.parser rfl rfl rfl rfl
  queue := queueInv_of_same h.queue rfl rfl rfl rfl rfl
  timers := timerInv_of_same h.timers rfl rfl rfl rfl rfl
  link := linkInv_of_same h.link rfl rfl id

theorem inv_giveResult (h : Inv s) (r : Result) : Inv (giveResult r s) := inv_of_outputs h _ _ _

theorem inv_raiseDrop (h : Inv s) (c : DropCause) : Inv (raiseDrop c s) := inv_of_outputs h _ _ _

/-- What changes the parser and the status registers alone keeps the invariant, if it keeps the parser's and never sets
`pairing`. -/
theorem inv_of_received (h : Inv s) (hsame : SameButReceive s t) (hparser : ParserInv t)
    (hpairing : t.pairing = true → s.pairing = true) : Inv t where
  params := hsame.params_eq ▸ h.params
  parser := hparser
  queue := queueInv_of_same h.queue (by rw [hsame]) (by rw [hsame]) (by rw [hsame]) (by rw [hsame]) (by rw [hsame])
  timers := timerInv_of_same h.timers (by rw [hsame]) (by rw [hsame]) (by rw [hsame]) (by rw [hsame]) (by rw [hsame])
  link := linkInv_of_same h.link (by rw [hsame]) (by rw [hsame]) hpairing

theorem inv_rxByte (h : Inv s) (b : Byte) : Inv (rxByte b s) :=
  inv_of_received h (rxByte_same s b) (rxByte_parserInv s b h.params h.parser) (rxByte_pairing s b)

theorem inv_rxBytesIn (h : Inv s) (bytes : List Byte) : Inv (rxBytesIn bytes s) :=
  inv_of_received h (rxBytesIn_same s bytes) (rxBytesIn_parserInv s bytes h.params h.parser) (rxBytesIn_pairing s bytes)

/-- R106: a completed frame leaves the parser. -/
theorem frameDone_same (s : State) (f : List Byte) : SameButReceive s (frameDone f s) := by
  unfold SameButReceive
  rw [frameDone_frame]

theorem inv_frameDone (h : Inv s) (f : List Byte) : Inv (frameDone f s) := by
  have hframe := frameDone_frame s f
  exact inv_of_received h (frameDone_same s f)
    (parserInv_of_same h.parser (by rw [hframe]) (by rw [hframe]) (by rw [hframe]) (by rw [hframe]))
    (frameDone_pairing s f)

/-- R190: the time-out can only clear a flag. -/
theorem pairTimeout_same (s : State) (t : Nat) : SameButReceive s (pairTimeout t s) := by
  rw [pairTimeout_eq]; rfl

theorem inv_pairTimeout (h : Inv s) (t : Nat) : Inv (pairTimeout t s) := by
  refine inv_of_received h (pairTimeout_same s t) ?_ ?_
  · rw [pairTimeout_eq]
    exact parserInv_of_same h.parser rfl rfl rfl rfl
  · rw [pairTimeout_eq]
    exact fun hp => (Bool.and_eq_true_iff.1 hp).1

/-- A change of the queue alone keeps the invariant if it keeps the queue's. -/
theorem inv_of_queue (h : Inv s) {m : List (Nat × Entry)} {hd tl d : Nat}
    (hq : QueueInv { s with qmem := m, qhead := hd, qtail := tl, qdepth := d }) :
    Inv { s with qmem := m, qhead := hd, qtail := tl, qdepth := d } where
  params := h.params
  parser := parserInv_of_same h.parser rfl rfl rfl rfl
  queue := hq
  timers := timerInv_of_same h.timers rfl rfl rfl rfl rfl
  link := linkInv_of_same h.link rfl rfl id

theorem inv_enqueue (h : Inv s) {e : Entry} (hd : s.qdepth < s.params.queueCap)
    (he : pushLenLegal s.params e.type e.data.length = true) : Inv (enqueue e s) :=
  inv_of_queue h (queueInv_enqueue e h.queue hd he)

theorem inv_dequeue (h : Inv s) (hd : 0 < s.qdepth) : Inv (dequeue s) := inv_of_queue h (queueInv_dequeue h.queue hd)

theorem inv_clearQueue (h : Inv s) : Inv (clearQueue s) := inv_of_queue h (queueInv_clearQueue s h.params.queueCap_min)

/-- A write of bytes whose stamps fit `TIME_W` bits, after which both timers hold one such stamp, keeps the timers'
invariant. -/
theorem timerInv_of_write (h : TimerInv s) (hp : t.params = s.params) {n : Nat} {more : List (Nat × Byte)}
    (hn : n < 2 ^ s.params.timeW) (hsend : t.lastSendTime = n) (hact : t.lastActivityTime = n)
    (hpair : t.pairStartTime < 2 ^ s.params.timeW) (htx : t.tx = s.tx ++ more)
    (hmore : ∀ c ∈ more, c.1 < 2 ^ s.params.timeW) : TimerInv t where
  same := hsend.trans hact.symm
  send_lt := by rwa [hsend, hp]
  pair_lt := by rwa [hp]
  tx_lt := by rw [htx, hp]; exact List.forall_mem_append.2 ⟨h.tx_lt, hmore⟩

theorem wakeBurstBytes_stamped_lt (p : Params) (t : Nat) :
    ∀ c ∈ wakeBurstBytes.map (fun b => (stamp p t, b)), c.1 < 2 ^ p.timeW := stamped_lt (stamp_lt p t)

/-- Log 26: a bare burst leaves the timers. -/
theorem inv_wakeBurst (h : Inv s) (t : Nat) : Inv (wakeBurst t s) where
  params := h.params
  parser := parserInv_of_same h.parser rfl rfl rfl rfl
  queue := queueInv_of_same h.queue rfl rfl rfl rfl rfl
  timers := timerInv_of_write h.timers rfl h.timers.send_lt rfl h.timers.same.symm h.timers.pair_lt rfl
    (wakeBurstBytes_stamped_lt _ _)
  link := linkInv_of_same h.link rfl rfl id

theorem sendBurst_lt (s : State) (t : Nat) : ∀ c ∈ sendBurst s t, c.1 < 2 ^ s.params.timeW := by
  unfold sendBurst
  split
  · exact replicate_lt (stamp_lt _ _)
  · simp

theorem inv_sched (h : Inv s) (t : Nat) : Inv (sched t s) := by
  have hq := queueInv_sched h.queue t
  rcases sched_cases s t with hs | ⟨hd, -, hs⟩
  · rwa [hs]
  · rw [hs, sendHead_eq s t hd] at hq ⊢
    have hn := sendTime_lt s t
    exact ⟨h.params, parserInv_of_same h.parser rfl rfl rfl rfl, hq,
      timerInv_of_write h.timers rfl hn rfl rfl h.timers.pair_lt (List.append_assoc ..)
        (List.forall_mem_append.2 ⟨sendBurst_lt s t, stamped_lt hn⟩),
      linkInv_of_same h.link rfl rfl id⟩

theorem inv_tick (h : Inv s) (t : Nat) (bytes : List Byte) : Inv (tick t bytes s) :=
  inv_sched (inv_pairTimeout (inv_rxBytesIn h bytes) t) t

/-- What the link operations share: the parser as before and an empty queue. -/
theorem inv_of_session (h : Inv s) (hparams : t.params = s.params)
    (hps : t.pstate = s.pstate) (hix : t.rxidx = s.rxidx) (hbuf : t.rxbuf = s.rxbuf)
    (hm : t.qmem = []) (hh : t.qhead = 0) (ht : t.qtail = 0) (hd : t.qdepth = 0)
    (htimers : TimerInv t) (hlink : LinkInv t) : Inv t where
  params := hparams ▸ h.params
  parser := parserInv_of_same h.parser hparams hps hix hbuf
  queue := queueInv_empty t (hparams ▸ h.params.queueCap_min) hm hh ht hd
  timers := htimers
  link := hlink

theorem afterWake_lt (p : Params) (t : Nat) : afterWake p t < 2 ^ p.timeW := stamp_lt _ _

theorem inv_startProfile (h : Inv s) {m : Mode} (hm : m ≠ .usb) (t : Nat) : Inv (startProfile m t s) := by
  rw [startProfile_eq]
  refine inv_of_session h rfl rfl rfl rfl rfl rfl rfl rfl ?_ ⟨iff_of_true rfl hm, fun hp => nomatch hp⟩
  refine timerInv_of_write h.timers rfl (stamp_lt _ _) rfl rfl h.timers.pair_lt
    ((List.append_assoc ..).trans (List.append_assoc ..)) ?_
  simp only [List.forall_mem_append]
  exact ⟨replicate_lt (stamp_lt _ _), stamped_lt (afterWake_lt _ _), stamped_lt (stamp_lt _ _)⟩

theorem inv_pairProfile (h : Inv s) {m : Mode} (hm : m ≠ .usb) (t : Nat) : Inv (pairProfile m t s) := by
  rw [pairProfile_eq]
  refine inv_of_session h rfl rfl rfl rfl rfl rfl rfl rfl ?_ ⟨iff_of_true rfl hm, fun _ => hm⟩
  refine timerInv_of_write h.timers rfl (stamp_lt _ _) rfl rfl (stamp_lt _ _)
    ((List.append_assoc ..).trans (List.append_assoc ..)) ?_
  simp only [List.forall_mem_append]
  exact ⟨replicate_lt (stamp_lt _ _), stamped_lt (afterWake_lt _ _), stamped_lt (stamp_lt _ _)⟩

theorem inv_stopLink (h : Inv s) (t : Nat) : Inv (stopLink t s) := by
  rw [stopLink_eq]
  refine inv_of_session h rfl rfl rfl rfl rfl rfl rfl rfl ?_
    ⟨iff_of_false Bool.false_ne_true (· rfl), fun hp => nomatch hp⟩
  exact timerInv_of_write h.timers rfl (afterWake_lt _ _) rfl rfl h.timers.pair_lt (List.append_assoc ..)
    (List.forall_mem_append.2 ⟨replicate_lt (stamp_lt _ _), stamped_lt (afterWake_lt _ _)⟩)

/-- Every instruction keeps the invariant, by the shared operation that gives its next state. -/
theorem exec_keeps_inv {i : Instr} {u : State} (h : Inv s) (hu : exec i s = .next u) : Inv u := by
  cases exec_effect hu with
  | received _ b => exact inv_rxByte h b
  | framed _ f => exact inv_frameDone h f
  | nothing => exact h
  | answered _ r => exact inv_giveResult h r
  | burst t => exact inv_giveResult (inv_wakeBurst h t) _
  | pushed ty payload hl hd => exact inv_giveResult (inv_enqueue h hd hl) _
  | notPushed ty payload c => exact inv_giveResult (inv_raiseDrop h c) _
  | popped hd => exact inv_giveResult (inv_dequeue h (Nat.pos_of_ne_zero hd)) _
  | cleared => exact inv_clearQueue h
  | scheduled t => exact inv_sched h t
  | ticked t bytes => exact inv_tick h t bytes
  | timedOut t => exact inv_pairTimeout h t
  | started m t mode hm => exact inv_startProfile h (code_of_profileOf hm).2 t
  | paired m t mode hm => exact inv_pairProfile h (code_of_profileOf hm).2 t
  | stopped t => exact inv_stopLink h t
  | submitted _ ty payload hl hd => exact inv_enqueue h hd hl
  | dropped _ c => exact inv_raiseDrop h c

end Invariant

/-! ## Steps -/

/-- R50: with an item presented that decodes, a step runs its instruction with the item taken. -/
theorem step_of_decode {s : State} {f : Fetch} {rest : List Fetch} {i : Instr} (hp : s.pending = f :: rest)
    (hd : decode s.ctx f = .ok i) : step s = exec i { s with pending := rest } := by
  simp only [step, hp, hd]

theorem step_of_undecodable {s : State} {f : Fetch} {rest : List Fetch} {e : DecodeError} (hp : s.pending = f :: rest)
    (hd : decode s.ctx f = .error e) : step s = .refused (.undecodable e) := by
  simp only [step, hp, hd]

theorem step_of_idle {s : State} (hp : s.pending = []) : step s = .next s := by simp only [step, hp]

/-- Settles O50: the three cases of a step. -/
theorem stepRunsTheDecodedInstruction : Obligations.StepRunsTheDecodedInstruction :=
  fun _ _ _ => ⟨fun _ => step_of_decode, fun _ => step_of_undecodable, step_of_idle⟩

/-- Settles O54: by what is presented; an instruction that runs keeps the invariant, which does not look at what is
presented. -/
theorem stepKeepsInvariant : Obligations.StepKeepsInvariant := by
  intro s u h hu
  cases hp : s.pending with
  | nil =>
    rw [step_of_idle hp] at hu
    cases hu
    exact h
  | cons f rest =>
    cases hd : decode s.ctx f with
    | error e =>
      rw [step_of_undecodable hp hd] at hu
      cases hu
    | ok i =>
      rw [step_of_decode hp hd] at hu
      exact exec_keeps_inv (inv_of_outputs h s.events s.results rest) hu

/-! ## Reset -/

theorem legal_default : Params.default.Legal where
  maxFrameLen_range := by decide
  rxBufCap_min := by decide
  cmdMax_eq := rfl
  workmodeMax_eq := rfl
  queueCap_min := by decide
  payloadCap_range := by decide
  startBlocking := by decide
  pairBlocking := by decide
  deviceName_length := rfl
  rxDrainMax_min := fun _ h => nomatch h

/-- The clock values of reset are zero, and nothing was written. -/
theorem timerInv_reset (p : Params) : TimerInv (State.resetWith p) where
  same := rfl
  send_lt := two_pow_timeW_pos p
  pair_lt := two_pow_timeW_pos p
  tx_lt := fun _ h => nomatch h

theorem linkInv_reset (p : Params) : LinkInv (State.resetWith p) where
  sink := iff_of_false Bool.false_ne_true (· rfl)
  pairing_wireless := fun h => nomatch h

theorem inv_reset {p : Params} (hp : p.Legal) : Inv (State.resetWith p) where
  params := hp
  parser := parserInv_ready _ rfl rfl rfl
  queue := queueInv_empty _ hp.queueCap_min rfl rfl rfl rfl
  timers := timerInv_reset p
  link := linkInv_reset p

/-- Settles O55: part by part. -/
theorem resetMeetsInvariant : Obligations.ResetMeetsInvariant := ⟨fun _ hp => inv_reset hp, legal_default⟩

/-- Settles O49: the meaning of every row is a `.next`. -/
theorem noInstructionFaultsOrGetsStuck : Obligations.NoInstructionFaultsOrGetsStuck := by
  intro i s
  cases i <;> exact ⟨_, rfl⟩

/-- Settles O1: the reset values, and that every instruction completes. -/
theorem resetStartsIdleAndRunsAnyFirstOperation : Obligations.ResetStartsIdleAndRunsAnyFirstOperation :=
  fun _ => ⟨rfl, rfl, rfl, liveEntries_eq_nil _ rfl, rfl, fun i => noInstructionFaultsOrGetsStuck i _⟩

/-- Settles O2: each field of the reset state is written as its value. -/
theorem resetRegisterValues : Obligations.ResetRegisterValues :=
  ⟨rfl, fun _ => ⟨_, rfl, rfl, rfl, rfl, rfl, rfl, rfl, rfl, rfl, rfl, rfl, rfl, rfl, rfl, rfl, rfl, rfl,
    rfl, rfl, rfl, rfl⟩⟩

end Sys2Proof.Proofs

/-! What each instruction may change: the histories, which only grow, and the registers (spec/10_state.md section 7,
spec/60_exceptions.md section 4). -/

namespace Sys2Proof.Proofs

open Sys2Proof.Machine

/-! ## The histories -/

/-- From `s` to `u` the parameters and what is presented stay, and the histories only grow. -/
structure Grows (s u : State) : Prop where
  params : u.params = s.params
  pending : u.pending = s.pending
  tx : s.tx <+: u.tx
  events : s.events <+: u.events
  results : s.results <+: u.results

section Grows

variable {s u v : State}

theorem Grows.refl (s : State) : Grows s s := ⟨rfl, rfl, List.prefix_rfl, List.prefix_rfl, List.prefix_rfl⟩

theorem Grows.trans (h : Grows s u) (k : Grows u v) : Grows s v :=
  ⟨k.params.trans h.params, k.pending.trans h.pending, h.tx.trans k.tx, h.events.trans k.events,
    h.results.trans k.results⟩

theorem grows_giveResult (s : State) (r : Result) : Grows s (giveResult r s) :=
  ⟨rfl, rfl, List.prefix_rfl, List.prefix_rfl, List.prefix_append _ _⟩

theorem grows_raiseDrop (s : State) (c : DropCause) : Grows s (raiseDrop c s) :=
  ⟨rfl, rfl, List.prefix_rfl, List.prefix_append _ _, List.prefix_rfl⟩

theorem grows_of_received (h : SameButReceive s u) (he : s.events <+: u.events) : Grows s u :=
  ⟨h.params_eq, by rw [h], by rw [h], he, by rw [h]⟩

theorem grows_of_registers (hp : u.params = s.params) (hn : u.pending = s.pending) (ht : u.tx = s.tx)
    (he : u.events = s.events) (hr : u.results = s.results) : Grows s u :=
  ⟨hp, hn, ht ▸ List.prefix_rfl, he ▸ List.prefix_rfl, hr ▸ List.prefix_rfl⟩

theorem grows_of_wire (hp : u.params = s.params) (hn : u.pending = s.pending) (ht : s.tx <+: u.tx)
    (he : u.events = s.events) (hr : u.results = s.results) : Grows s u :=
  ⟨hp, hn, ht, he ▸ List.prefix_rfl, hr ▸ List.prefix_rfl⟩

theorem grows_enqueue (s : State) (e : Entry) : Grows s (enqueue e s) := grows_of_registers rfl rfl rfl rfl rfl

theorem grows_dequeue (s : State) : Grows s (dequeue s) := grows_of_registers rfl rfl rfl rfl rfl

theorem grows_clearQueue (s : State) : Grows s (clearQueue s) := grows_of_registers rfl rfl rfl rfl rfl

theorem grows_wakeBurst (s : State) (t : Nat) : Grows s (wakeBurst t s) :=
  grows_of_wire rfl rfl (List.prefix_append _ _) rfl rfl

theorem grows_sched (s : State) (t : Nat) : Grows s (sched t s) := by
  have h := sched_same s t
  exact grows_of_wire (by rw [h]) (by rw [h]) (sched_tx s t) (by rw [h]) (by rw [h])

theorem grows_pairTimeout (s : State) (t : Nat) : Grows s (pairTimeout t s) :=
  grows_of_received (pairTimeout_same s t) (by rw [pairTimeout_eq])

theorem grows_tick (s : State) (t : Nat) (bytes : List Byte) : Grows s (tick t bytes s) :=
  ((grows_of_received (rxBytesIn_same s bytes) (rxBytesIn_events s bytes)).trans (grows_pairTimeout _ t)).trans
    (grows_sched _ t)

/-- Three writes after one another leave what was written before. -/
theorem prefix_append_three {α : Type} (w x y z : List α) : w <+: w ++ x ++ y ++ z :=
  ((List.prefix_append w x).trans (List.prefix_append _ y)).trans (List.prefix_append _ z)

theorem grows_of_effect {i : Instr} (h : Effect s i u) : Grows s u := by
  cases h with
  | received _ b => exact grows_of_received (rxByte_same s b) (rxByte_events s b)
  | framed _ f => exact grows_of_received (frameDone_same s f) (frameDone_events s f)
  | nothing => exact .refl s
  | answered _ r => exact grows_giveResult s r
  | burst t => exact (grows_wakeBurst s t).trans (grows_giveResult _ _)
  | pushed ty payload => exact (grows_enqueue s _).trans (grows_giveResult _ _)
  | notPushed ty payload c => exact (grows_raiseDrop s c).trans (grows_giveResult _ _)
  | popped => exact (grows_dequeue s).trans (grows_giveResult _ _)
  | cleared => exact grows_clearQueue s
  | scheduled t => exact grows_sched s t
  | ticked t bytes => exact grows_tick s t bytes
  | timedOut t => exact grows_pairTimeout s t
  | started m t mode =>
    rw [startProfile_eq]
    exact grows_of_wire rfl rfl (prefix_append_three ..) rfl rfl
  | paired m t mode =>
    rw [pairProfile_eq]
    exact grows_of_wire rfl rfl (prefix_append_three ..) rfl rfl
  | stopped t =>
    rw [stopLink_eq]
    exact grows_of_wire rfl rfl ((List.prefix_append _ _).trans (List.prefix_append _ _)) rfl rfl
  | submitted => exact grows_enqueue s _
  | dropped _ c => exact grows_raiseDrop s c

end Grows

/-- Settles O56: by the shared operation that gives the next state. -/
theorem historiesOnlyGrow : Obligations.HistoriesOnlyGrow := by
  intro i s u hu
  obtain ⟨hp, hn, ht, he, hr⟩ := grows_of_effect (exec_effect hu)
  exact ⟨hp, hn, ht, he, hr⟩

/-! ## The registers -/

/-- From `s` to `u` no register outside `rs` changes. -/
def ChangesOnly (rs : List Reg) (s u : State) : Prop := ∀ r, r ∉ rs → r.same s u

section Registers

variable {s u v : State} {rs rs' : List Reg}

theorem Reg.same_refl (r : Reg) (s : State) : r.same s s := by cases r <;> rfl

theorem Reg.same_trans {r : Reg} (h : r.same s u) (k : r.same u v) : r.same s v := by
  cases r <;> exact Eq.trans k h

theorem ChangesOnly.refl (rs : List Reg) (s : State) : ChangesOnly rs s s := fun r _ => Reg.same_refl r s

theorem ChangesOnly.mono (h : ChangesOnly rs s u) (hsub : rs ⊆ rs') : ChangesOnly rs' s u :=
  fun r hr => h r fun hmem => hr (hsub hmem)

theorem ChangesOnly.append (h : ChangesOnly rs s u) (k : ChangesOnly rs' u v) : ChangesOnly (rs ++ rs') s v := by
  intro r hr
  rw [List.mem_append, not_or] at hr
  exact Reg.same_trans (h r hr.1) (k r hr.2)

/-- The registers a received byte may change (R91, 10_state R29). -/
def receiveRegs : List Reg := [.pstate, .rxidx, .rxbuf, .connected, .ledState, .pairing]

/-- The registers a completed frame may change (40_parser R106). -/
def statusRegs : List Reg := [.connected, .ledState, .pairing]

/-- The registers the scheduler may change (43_scheduler R159). -/
def sendRegs : List Reg := [.wire, .lastSendTime, .lastActivityTime, .qmem, .qhead, .qdepth]

/-- The registers START and STOP may change (44_link_ops R179, R188). -/
def sessionRegs : List Reg :=
  [.sinkInstalled, .connected, .pairing, .activeMode, .qmem, .qhead, .qtail, .qdepth, .wire, .lastSendTime,
    .lastActivityTime]

/-- The registers an instruction may change (10_state section 7). -/
def changes : Instr → List Reg
  | .rxbReadySync | .rxbReadyNoise _ | .rxbSyncSync | .rxbSyncLenBad _ | .rxbSyncLenOk _ | .rxbLenCmdBad _
  | .rxbLenCmdOk _ | .rxbCmdWmBad _ | .rxbCmdWmOk _ | .rxbPayOvf _ | .rxbPayData _ | .rxbyte _ => receiveRegs
  | .frmStatusConn _ _ | .frmStatusLed _ _ | .frmStatusOther _ _ _ | .frmStatusStale _ _ _
  | .frmGeneric _ _ _ => statusRegs
  | .wakeBurst _ => [.wire]
  | .push _ _ | .submitKbd _ | .submitMouse _ | .submitExtra _ | .submitNkro _ => [.qmem, .qtail, .qdepth]
  | .pop => [.qmem, .qhead, .qdepth]
  | .qclear => [.qmem, .qhead, .qtail, .qdepth]
  | .sched _ => sendRegs
  | .tick _ bytes => (if bytes = [] then [] else receiveRegs) ++ [.pairing] ++ sendRegs
  | .pairtmo _ => [.pairing]
  | .start _ _ | .stop _ => sessionRegs
  | .pair _ _ => .pairStartTime :: sessionRegs
  | .encKbd _ | .encMouse _ | .encExtra _ | .encNkro _ | .encStart _ | .encPair _ | .encStop | .qdepth | .isconn | .ledq
  | .reservedE | .reservedF => []

theorem changes_of_byteRow {i : Instr} (h : i.format = .rxbyte) : changes i = receiveRegs := by
  cases i <;> cases h <;> rfl

theorem changes_of_frameRow {i : Instr} (h : i.format = .rxframe) : changes i = statusRegs := by
  cases i <;> cases h <;> rfl

theorem changes_of_submit {i : Instr} {payload : List Byte}
    (h : i ∈ [.submitKbd payload, .submitMouse payload, .submitExtra payload, .submitNkro payload]) :
    changes i = [.qmem, .qtail, .qdepth] := by
  revert i
  simp [changes]

theorem changesOnly_received (h : SameButReceive s u) : ChangesOnly receiveRegs s u := by
  intro r hr
  rw [h]
  cases r <;> simp_all [receiveRegs, Reg.same]

theorem changesOnly_frameDone (s : State) (f : List Byte) : ChangesOnly statusRegs s (frameDone f s) := by
  intro r hr
  rw [frameDone_frame]
  cases r <;> simp_all [statusRegs, Reg.same]

theorem changesOnly_wakeBurst (s : State) (t : Nat) : ChangesOnly [.wire] s (wakeBurst t s) := by
  intro r hr
  cases r <;> simp_all [Reg.same]

theorem changesOnly_enqueue (s : State) (e : Entry) : ChangesOnly [.qmem, .qtail, .qdepth] s (enqueue e s) := by
  intro r hr
  cases r <;> simp_all [Reg.same]

theorem changesOnly_dequeue (s : State) : ChangesOnly [.qmem, .qhead, .qdepth] s (dequeue s) := by
  intro r hr
  cases r <;> simp_all [Reg.same]

theorem changesOnly_clearQueue (s : State) : ChangesOnly [.qmem, .qhead, .qtail, .qdepth] s (clearQueue s) := by
  intro r hr
  cases r <;> simp_all [Reg.same]

theorem changesOnly_sched (s : State) (t : Nat) : ChangesOnly sendRegs s (sched t s) := by
  intro r hr
  rw [sched_same s t]
  cases r <;> simp_all [sendRegs, Reg.same]

theorem changesOnly_pairTimeout (s : State) (t : Nat) : ChangesOnly [.pairing] s (pairTimeout t s) := by
  intro r hr
  rw [pairTimeout_eq]
  cases r <;> simp_all [Reg.same]

theorem changesOnly_drain (s : State) (bytes : List Byte) :
    ChangesOnly (if bytes = [] then [] else receiveRegs) s (rxBytesIn bytes s) := by
  split
  next hb => rw [hb]; exact .refl _ s
  · exact changesOnly_received (rxBytesIn_same s bytes)

theorem changesOnly_startProfile (s : State) (m : Mode) (t : Nat) : ChangesOnly sessionRegs s (startProfile m t s) := by
  intro r hr
  rw [startProfile_eq]
  cases r <;> simp_all [sessionRegs, Reg.same]

theorem changesOnly_pairProfile (s : State) (m : Mode) (t : Nat) :
    ChangesOnly (.pairStartTime :: sessionRegs) s (pairProfile m t s) := by
  intro r hr
  rw [pairProfile_eq]
  cases r <;> simp_all [sessionRegs, Reg.same]

theorem changesOnly_stopLink (s : State) (t : Nat) : ChangesOnly sessionRegs s (stopLink t s) := by
  intro r hr
  rw [stopLink_eq]
  cases r <;> simp_all [sessionRegs, Reg.same]

/-- Results and events are no registers. -/
theorem changesOnly_giveResult (h : ChangesOnly rs s u) (x : Result) : ChangesOnly rs s (giveResult x u) :=
  fun r hr => by have := h r hr; cases r <;> exact this

theorem changesOnly_raiseDrop (rs : List Reg) (s : State) (c : DropCause) : ChangesOnly rs s (raiseDrop c s) :=
  fun r _ => by cases r <;> rfl

/-- No instruction changes a register outside those of its row. -/
theorem exec_changesOnly {i : Instr} (hu : exec i s = .next u) : ChangesOnly (changes i) s u := by
  cases exec_effect hu with
  | received _ b h =>
    have hregs : changes i = receiveRegs := h.elim changes_of_byteRow fun hi => by rw [hi]; rfl
    rw [hregs]
    exact changesOnly_received (rxByte_same s b)
  | framed _ f h => rw [changes_of_frameRow h]; exact changesOnly_frameDone s f
  | nothing => exact .refl _ s
  | answered _ r => exact changesOnly_giveResult (.refl _ s) r
  | burst t => exact changesOnly_giveResult (changesOnly_wakeBurst s t) _
  | pushed ty payload => exact changesOnly_giveResult (changesOnly_enqueue s _) _
  | notPushed ty payload c => exact changesOnly_giveResult (changesOnly_raiseDrop _ s c) _
  | popped => exact changesOnly_giveResult (changesOnly_dequeue s) _
  | cleared => exact changesOnly_clearQueue s
  | scheduled t => exact changesOnly_sched s t
  | ticked t bytes =>
    exact ((changesOnly_drain s bytes).append (changesOnly_pairTimeout _ t)).append (changesOnly_sched _ t)
  | timedOut t => exact changesOnly_pairTimeout s t
  | started m t mode => exact changesOnly_startProfile s mode t
  | paired m t mode => exact changesOnly_pairProfile s mode t
  | stopped t => exact changesOnly_stopLink s t
  | submitted _ ty payload _ _ hi => rw [changes_of_submit hi]; exact changesOnly_enqueue s _
  | dropped _ c => exact changesOnly_raiseDrop _ s c

/-- Only a received byte may change the parser (10_state R29), by looking the instruction up in `changes`. -/
theorem parser_notMem_changes {i : Instr} (hrow : i.format ≠ .rxbyte) (hbyte : ∀ b, i ≠ .rxbyte b)
    (htick : ∀ t bytes, i = .tick t bytes → bytes = []) {r : Reg} (hr : r ∈ [Reg.pstate, .rxidx, .rxbuf]) :
    r ∉ changes i := by
  simp only [List.mem_cons, List.not_mem_nil, or_false] at hr
  rcases hr with rfl | rfl | rfl <;> cases i <;>
    simp_all [Instr.format, changes, statusRegs, sendRegs, sessionRegs]

end Registers

/-- Settles O57: none of the three registers is among those the instruction may change. -/
theorem onlyReceivedBytesChangeTheParser : Obligations.OnlyReceivedBytesChangeTheParser := by
  intro i s u hu hrow hbyte htick
  have hsame : ∀ r ∈ [Reg.pstate, .rxidx, .rxbuf], r.same s u := fun r hr =>
    exec_changesOnly hu r (parser_notMem_changes hrow hbyte htick hr)
  exact ⟨hsame .pstate (by simp), hsame .rxidx (by simp), hsame .rxbuf (by simp)⟩

/-- Settles O58: the registers named are not among those the instruction may change, by looking it up in
`changes`. -/
theorem onlyLinkOperationsChangeTheMode : Obligations.OnlyLinkOperationsChangeTheMode := by
  intro i s u hu
  have hsame := exec_changesOnly hu
  refine ⟨fun hstart hpair hstop => ⟨hsame .activeMode ?_, hsame .sinkInstalled ?_, fun hsched htick =>
    ⟨hsame .lastSendTime ?_, hsame .lastActivityTime ?_⟩⟩, fun hpair => hsame .pairStartTime ?_⟩
  all_goals cases i <;> simp_all [changes, receiveRegs, statusRegs, sendRegs, sessionRegs]

/-- 60_exceptions R230: every register an instruction may change is one its principal owns, writes or reaches. -/
theorem changes_subset_mayChange {q : Principal} {i : Instr} (h : mayInvoke q i = true) : changes i ⊆ q.mayChange := by
  have hq : q ∈ invokers i := of_decide_eq_true h
  cases i with
  | rxbReadySync | rxbReadyNoise | rxbSyncSync | rxbSyncLenBad | rxbSyncLenOk | rxbLenCmdBad | rxbLenCmdOk | rxbCmdWmBad
  | rxbCmdWmOk | rxbPayOvf | rxbPayData | rxbyte =>
    obtain rfl := List.mem_singleton.1 hq
    exact (by decide : receiveRegs ⊆ Principal.frameCodec.mayChange)
  | sched =>
    obtain rfl := List.mem_singleton.1 hq
    exact (by decide : sendRegs ⊆ Principal.transmitScheduler.mayChange)
  | pop =>
    obtain rfl := List.mem_singleton.1 hq
    decide
  | start | pair | stop | pairtmo | qclear =>
    obtain rfl := List.mem_singleton.1 hq
    exact List.Subset.trans (by simp [changes, sessionRegs])
      (by decide : .pairStartTime :: sessionRegs ⊆ Principal.linkController.mayChange)
  | push | submitKbd | submitMouse | submitExtra | submitNkro =>
    obtain rfl := List.mem_singleton.1 hq
    exact (by decide : [Reg.qmem, .qtail, .qdepth] ⊆ Principal.hostReportSink.mayChange)
  | tick t bytes =>
    obtain rfl := List.mem_singleton.1 hq
    have hdrain : (if bytes = [] then [] else receiveRegs) ⊆ Principal.mainLoop.mayChange := by
      split
      · exact List.nil_subset _
      · decide
    exact List.append_subset.2 ⟨List.append_subset.2 ⟨hdrain, by decide⟩, by decide⟩
  | isconn | ledq | qdepth => exact List.nil_subset _
  | _ => cases hq

/-- Settles O60: what an instruction may change is within what its principal may. -/
theorem principalsChangeOnlyTheirRegisters : Obligations.PrincipalsChangeOnlyTheirRegisters :=
  fun _ _ _ _ hq hu => (exec_changesOnly hu).mono (changes_subset_mayChange hq)

end Sys2Proof.Proofs

/-! The scheduler and the tick (spec/43_scheduler.md), the pairing window (spec/44_link_ops.md section 4), and how long
an instruction blocks (spec/70_reset_and_hazards.md section 3). -/

namespace Sys2Proof.Proofs

open Sys2Proof.Machine Sys2Proof.Safety

/-! ## The scheduler -/

section Scheduler

variable {s u : State} {t : Nat}

/-- R161: with an empty queue nothing happens, however long the silence. -/
theorem sched_of_empty (h : s.qdepth = 0) : sched t s = s := if_pos h

theorem slotAt_sendHead_other (hd : s.qdepth ≠ 0) {a : Nat} (ha : a ≠ s.qhead) :
    slotAt (sendHead t s) a = slotAt s a := by
  rw [sendHead_eq s t hd]
  exact slotAt_dequeue_other s ha

/-- R159: the burst and the frame's stamp, by the silence before. -/
theorem sendBurst_of_wakeDue (h : wakeDue s t = true) :
    sendBurst s t = List.replicate 60 (stamp s.params t, 0) ∧
      sendTime s t = stamp s.params (t + s.params.wakeDelayMs) :=
  ⟨if_pos h, if_pos h⟩

theorem sendBurst_of_not_wakeDue (h : wakeDue s t = false) : sendBurst s t = [] ∧ sendTime s t = stamp s.params t := by
  simp [sendBurst, sendTime, h]

/-- R156: a scheduler that writes had an entry and the interval behind it. -/
theorem due_of_sched_tx_ne (h : (sched t s).tx ≠ s.tx) : s.qdepth ≠ 0 ∧ rateLimited s t = false := by
  rcases sched_cases s t with hs | ⟨hd, hr, -⟩
  · exact absurd (by rw [hs]) h
  · exact ⟨hd, hr⟩

/-- R164: the sending arm passes the link flags on. -/
theorem sched_of_flags (s : State) (t : Nat) (c p k : Bool) :
    sched t { s with connected := c, pairing := p, sinkInstalled := k } =
      { sched t s with connected := c, pairing := p, sinkInstalled := k } := by
  by_cases hd : s.qdepth = 0
  · rw [sched_of_empty hd, sched_of_empty (s := { s with connected := c, pairing := p, sinkInstalled := k }) hd]
  cases hr : rateLimited s t with
  | true =>
    rw [sched_of_rateLimited hr,
      sched_of_rateLimited (s := { s with connected := c, pairing := p, sinkInstalled := k }) hr]
  | false =>
    rw [sched_of_due hd hr, sched_of_due (s := { s with connected := c, pairing := p, sinkInstalled := k }) hd hr,
      sendHead_eq s t hd, sendHead_eq { s with connected := c, pairing := p, sinkInstalled := k } t hd]
    rfl

end Scheduler

/-- Settles O36: the empty queue, and the sending arm as one equation, whose burst and stamp the wake condition
picks. -/
theorem schedIdlesOrSendsHeadEntry : Obligations.SchedIdlesOrSendsHeadEntry := by
  intro s t
  refine ⟨fun hempty => by rw [exec_sched, sched_of_empty hempty], fun hpos hinterval => ?_⟩
  have hd : s.qdepth ≠ 0 := hpos.ne'
  have hsend := sched_of_due hd ((rateLimited_eq_false s t).2 hinterval)
  refine ⟨sendHead t s, sendTime s t, sendBurst s t, by rw [exec_sched, hsend],
    fun hlong => sendBurst_of_wakeDue ((wakeDue_iff s t).2 hlong),
    fun hshort => sendBurst_of_not_wakeDue ((wakeDue_eq_false s t).2 hshort), ?_⟩
  have hslots := fun a (ha : a ≠ s.qhead) => slotAt_sendHead_other (t := t) hd ha
  rw [sendHead_eq s t hd] at hslots ⊢
  exact ⟨rfl, rfl, rfl, rfl, rfl, hslots, rfl⟩

/-- Settles O38: by the case the scheduler takes, which looks at no link flag. -/
theorem schedIgnoresLinkFlags : Obligations.SchedIgnoresLinkFlags :=
  fun s t c p k => ⟨sched t s, exec_sched t s, by rw [exec_sched, sched_of_flags]⟩

/-! ## The tick -/

/-- R165: the row is the three parts. -/
theorem exec_tick (t : Nat) (bytes : List Byte) (s : State) :
    exec (.tick t bytes) s = .next (sched t (pairTimeout t (rxBytesIn bytes s))) := rfl

/-- What a TICK's scheduler finds differs from the state before at most as a received byte may change it. -/
theorem drained_same (s : State) (t : Nat) (bytes : List Byte) :
    SameButReceive s (pairTimeout t (rxBytesIn bytes s)) :=
  (rxBytesIn_same s bytes).trans (pairTimeout_same _ t)

/-- Settles O37: what a TICK does before its scheduler leaves the queue, the mode and the timers. -/
theorem schedNeverSendsWithinInterval : Obligations.SchedNeverSendsWithinInterval := by
  intro s u t bytes hu hne
  rw [← rateLimited_eq_false, Nat.pos_iff_ne_zero]
  rcases hu with hu | hu
  · cases hu
    exact due_of_sched_tx_ne hne
  · cases hu
    change (sched t (pairTimeout t (rxBytesIn bytes s))).tx ≠ s.tx at hne
    have hsame := drained_same s t bytes
    generalize pairTimeout t (rxBytesIn bytes s) = v at hne hsame
    have htx : v.tx = s.tx := by rw [hsame]
    obtain ⟨hd, hr⟩ := due_of_sched_tx_ne (htx ▸ hne)
    rw [hsame] at hd hr
    exact ⟨hd, hr⟩

/-- A run that completes is followed by the rest of the instructions. -/
theorem execAll_append {is js : List Instr} {s u : State} (h : execAll is s = .next u) :
    execAll (is ++ js) s = execAll js u := by
  induction is generalizing s with
  | nil => cases h; rfl
  | cons i is ih =>
    simp only [List.cons_append, execAll] at h ⊢
    split at h
    · exact ih h
    · cases h
    · cases h

/-- Settles O39: the bytes run as the receive drain, and then the two others. -/
theorem tickIsDrainThenTimeoutThenSched : Obligations.TickIsDrainThenTimeoutThenSched :=
  fun s t bytes => ⟨_, execAll_append (execAll_rxbyte s bytes), exec_tick t bytes s⟩

/-! ## The clock, the burst and the pairing window -/

/-- Settles O34: the two differ by a multiple of `2^TIME_W`. -/
theorem elapsedIsModularDifference : Obligations.ElapsedIsModularDifference := by
  intro p t t0
  refine ⟨elapsed_lt p t t0, ?_⟩
  have hmod : t0 % 2 ^ p.timeW ≤ 2 ^ p.timeW := (Nat.mod_lt _ (two_pow_timeW_pos p)).le
  have hdiff : ((t + (2 ^ p.timeW - t0 % 2 ^ p.timeW) : Nat) : Int) =
      (t - t0) + 2 ^ p.timeW * (t0 / 2 ^ p.timeW + 1) := by
    have hdiv : ((t0 : Int) % 2 ^ p.timeW) = t0 - 2 ^ p.timeW * (t0 / 2 ^ p.timeW) := Int.emod_def _ _
    push_cast [hmod]
    rw [hdiv]
    ring
  rw [elapsed, Int.natCast_emod, hdiff]
  push_cast
  exact Int.add_mul_emod_self_left _ _ _

/-- R130: the burst, and the time it answers with. -/
theorem exec_wakeBurst (t : Nat) (s : State) :
    exec (.wakeBurst t) s = .next (giveResult (.resumeAt (afterWake s.params t)) (wakeBurst t s)) := rfl

/-- Settles O27: the row writes the burst and answers with the time after its delay. -/
theorem wakeBurstWritesSixtyZeros : Obligations.WakeBurstWritesSixtyZeros := by
  intro s t
  rw [exec_wakeBurst, giveResult, wakeBurst, wireWrite, map_replicate_burst]
  rfl

/-- R190: the row is the time-out. -/
theorem exec_pairtmo (t : Nat) (s : State) : exec (.pairtmo t) s = .next (pairTimeout t s) := rfl

/-- Settles O40: the time-out keeps `pairing` exactly while the window is open. -/
theorem pairTimeoutClearsPairingAfterWindow : Obligations.PairTimeoutClearsPairingAfterWindow := by
  intro s t
  rw [exec_pairtmo, pairTimeout_eq]
  refine ⟨fun hover => ?_, fun hopen => ?_⟩
  · rw [(pairWindowOver_iff s t).2 hover, Bool.not_true, Bool.and_false]
  · rw [(pairWindowOver_eq_false s t).2 hopen, Bool.not_false, Bool.and_true]

/-! ## Blocking -/

section Blocking

variable {s u v : State} {t d : Nat} {i : Instr}

theorem schedBusy_le (t : Nat) (s : State) : schedBusy t s ≤ s.params.wakeDelayMs := by
  unfold schedBusy
  split
  · exact le_rfl
  · exact Nat.zero_le _

theorem startBusy_le (m : Byte) (s : State) : startBusy m s ≤ s.params.wakeDelayMs + s.params.retxDelayMs := by
  unfold startBusy
  split
  · exact Nat.zero_le _
  · split
    · exact Nat.zero_le _
    · exact le_rfl

theorem pairBusy_le (m : Byte) (s : State) : pairBusy m s ≤ s.params.wakeDelayMs + s.params.pairGapMs := by
  unfold pairBusy
  split
  · exact Nat.zero_le _
  · exact le_rfl

/-- R163, R250: the delays among the parameters limit every blocking time. -/
theorem busyTime_le (hp : s.params.Legal) (i : Instr) : busyTime i s ≤ 400 := by
  have hstart := hp.startBlocking
  have hpair := hp.pairBlocking
  have hwake : s.params.wakeDelayMs ≤ 400 := by omega
  cases i with
  | wakeBurst => exact hwake
  | sched t => exact (schedBusy_le t s).trans hwake
  | tick t bytes =>
    have hparams := (drained_same s t bytes).params_eq
    exact (schedBusy_le t _).trans (hparams ▸ hwake)
  | start m => exact (startBusy_le m s).trans hstart
  | pair m => exact (pairBusy_le m s).trans hpair
  | stop =>
    change (if _ then 0 else _) ≤ 400
    split
    · exact Nat.zero_le _
    · exact hwake
  | _ => exact Nat.zero_le _

/-- An instruction without a clock reading does not block, and the wire is none of the registers it may change. -/
theorem busyTime_of_untimed (h : clockOf i = none) (s : State) : busyTime i s = 0 := by
  cases i <;> cases h <;> rfl

theorem tx_of_untimed (h : clockOf i = none) (hu : exec i s = .next u) : u.tx = s.tx := by
  refine exec_changesOnly hu .wire ?_
  cases i <;> simp_all [clockOf, changes, receiveRegs, statusRegs]

/-- R163, log 26: what a timed instruction that writes, and blocks for `d`, leaves: both timers and the last byte
stamped with its reading plus `d`, and a burst first if it blocked. -/
structure Writes (t d : Nat) (s u : State) : Prop where
  send : u.lastSendTime = stamp s.params (t + d)
  activity : u.lastActivityTime = stamp s.params (t + d)
  last : ∃ before b, u.tx = s.tx ++ (before ++ [(stamp s.params (t + d), b)])
  burst : d ≠ 0 → ∃ rest, u.tx = s.tx ++ List.replicate 60 (stamp s.params t, 0) ++ rest

theorem Writes.tx_ne (h : Writes t d s u) : u.tx ≠ s.tx := by
  obtain ⟨before, b, htx⟩ := h.last
  simp [htx]

/-- A frame that is written ends in a byte with the frame's stamp. -/
theorem stamped_eq_append_last {f : List Byte} (hf : f ≠ []) (n : Nat) :
    f.map (fun b => (n, b)) = f.dropLast.map (fun b => (n, b)) ++ [(n, f.getLast hf)] := by
  conv_lhs => rw [← List.dropLast_append_getLast hf, List.map_append]
  rfl

/-- An instruction that writes a frame last. -/
theorem writes_of_frame {f : List Byte} (hf : f ≠ []) {before : List (Nat × Byte)} {n : Nat}
    (hn : n = stamp s.params (t + d)) (hsend : u.lastSendTime = n) (hact : u.lastActivityTime = n)
    (htx : u.tx = s.tx ++ before ++ f.map fun b => (n, b))
    (hburst : d ≠ 0 → List.replicate 60 (stamp s.params t, 0) <+: before) : Writes t d s u := by
  subst hn
  refine ⟨hsend, hact, ⟨before ++ f.dropLast.map fun b => (stamp s.params (t + d), b), f.getLast hf, ?_⟩, fun hd => ?_⟩
  · rw [htx, stamped_eq_append_last hf]
    simp only [List.append_assoc]
  · obtain ⟨rest, hrest⟩ := hburst hd
    exact ⟨rest ++ f.map fun b => (stamp s.params (t + d), b), by rw [htx, ← hrest]; simp only [List.append_assoc]⟩

/-- The writes and the blocking time look at the parameters and the wire of the state before. -/
theorem Writes.of_same (h : Writes t d v u) (hp : v.params = s.params) (ht : v.tx = s.tx) : Writes t d s u := by
  obtain ⟨h1, h2, h3, h4⟩ := h
  rw [hp] at h1 h2
  simp only [hp, ht] at h3 h4
  exact ⟨h1, h2, h3, h4⟩

theorem sched_writes (s : State) (t : Nat) :
    ((sched t s).tx = s.tx ∧ schedBusy t s = 0) ∨ Writes t (schedBusy t s) s (sched t s) := by
  by_cases hd : s.qdepth = 0
  · exact .inl ⟨by rw [sched_of_empty hd], if_neg fun h => h.1 hd⟩
  cases hr : rateLimited s t with
  | true => exact .inl ⟨by rw [sched_of_rateLimited hr], if_neg fun h => by simp [hr] at h⟩
  | false =>
    have hbusy : schedBusy t s = if wakeDue s t = true then s.params.wakeDelayMs else 0 := by simp [schedBusy, hd, hr]
    refine .inr ?_
    rw [sched_of_due hd hr, sendHead_eq s t hd, hbusy]
    refine writes_of_frame (encodeReport_ne_nil _) ?_ rfl rfl rfl fun hne => ?_
    · unfold sendTime afterWake
      split <;> rfl
    · have hwake : wakeDue s t = true := by by_contra h; exact hne (if_neg h)
      rw [(sendBurst_of_wakeDue hwake).1]

theorem schedBusy_of_recent (h : elapsed s.params t s.lastActivityTime ≤ 10000) : schedBusy t s = 0 := by
  have hwake := (wakeDue_eq_false s t).2 h
  exact if_neg fun hdue => by simp [hwake] at hdue

theorem start_writes (s : State) (m : Byte) (t : Nat) :
    ((start m t s).tx = s.tx ∧ startBusy m s = 0) ∨ Writes t (startBusy m s) s (start m t s) := by
  unfold start startBusy
  cases profileOf m with
  | none => exact .inl ⟨rfl, rfl⟩
  | some mode =>
    by_cases hactive : mode = s.activeMode
    · simp [hactive]
    · simp only [hactive, if_false]
      rw [startProfile_eq]
      refine .inr (writes_of_frame (List.cons_ne_nil _ _) ?_ rfl rfl (congrArg (· ++ _) (List.append_assoc ..))
        fun _ => List.prefix_append _ _)
      rw [afterWake, stamp_stamp_add, Nat.add_assoc]

theorem pair_writes (s : State) (m : Byte) (t : Nat) :
    ((pair m t s).tx = s.tx ∧ pairBusy m s = 0) ∨ Writes t (pairBusy m s) s (pair m t s) := by
  unfold pair pairBusy
  cases profileOf m with
  | none => exact .inl ⟨rfl, rfl⟩
  | some mode =>
    simp only
    rw [pairProfile_eq]
    refine .inr (writes_of_frame (List.cons_ne_nil _ _) ?_ rfl rfl (congrArg (· ++ _) (List.append_assoc ..))
      fun _ => List.prefix_append _ _)
    rw [afterWake, stamp_stamp_add, Nat.add_assoc]

theorem stop_writes (s : State) (t : Nat) :
    ((stop t s).tx = s.tx ∧ busyTime (.stop t) s = 0) ∨ Writes t (busyTime (.stop t) s) s (stop t s) := by
  simp only [stop, busyTime]
  split
  · exact .inl ⟨rfl, rfl⟩
  · rw [stopLink_eq]
    exact .inr (writes_of_frame (List.cons_ne_nil _ _) rfl rfl rfl rfl fun _ => List.prefix_rfl)

/-- R163, R250: an instruction writes nothing and does not block, or is a bare burst, or writes as its blocking time
says. -/
theorem exec_writes (hu : exec i s = .next u) :
    (u.tx = s.tx ∧ busyTime i s = 0) ∨ (∃ t, i = .wakeBurst t) ∨
      ∃ t, clockOf i = some t ∧ Writes t (busyTime i s) s u := by
  cases i with
  | wakeBurst t => exact .inr (.inl ⟨t, rfl⟩)
  | sched t => cases hu; exact (sched_writes s t).imp_right fun h => .inr ⟨t, rfl, h⟩
  | tick t bytes =>
    cases hu
    have hsame := drained_same s t bytes
    have htx : (pairTimeout t (rxBytesIn bytes s)).tx = s.tx := by rw [hsame]
    exact (sched_writes _ t).imp (fun h => ⟨h.1.trans htx, h.2⟩)
      fun h => .inr ⟨t, rfl, h.of_same hsame.params_eq htx⟩
  | pairtmo t => cases hu; exact .inl ⟨by rw [pairTimeout_same s t], rfl⟩
  | start m t => cases hu; exact (start_writes s m t).imp_right fun h => .inr ⟨t, rfl, h⟩
  | pair m t => cases hu; exact (pair_writes s m t).imp_right fun h => .inr ⟨t, rfl, h⟩
  | stop t => cases hu; exact (stop_writes s t).imp_right fun h => .inr ⟨t, rfl, h⟩
  | _ => exact .inl ⟨tx_of_untimed rfl hu, rfl⟩

/-- The bare burst (41_encoder R130). -/
theorem wakeBurst_tx_replicate (s : State) (t : Nat) :
    (wakeBurst t s).tx = s.tx ++ List.replicate 60 (stamp s.params t, 0) := by
  rw [wakeBurst_tx, map_replicate_burst]

end Blocking

/-- Settles O59: the limit by the parameters' delays; the clauses on writes by the three kinds of instruction. -/
theorem blockingTimeIsBounded : Obligations.BlockingTimeIsBounded := by
  intro i s u hp hu
  refine ⟨busyTime_le hp i, fun htx => ?_, fun huntimed => ⟨busyTime_of_untimed huntimed s, tx_of_untimed huntimed hu⟩,
    fun hbusy => ?_, fun t hclock hne hbare => ?_, fun t hi => ?_, fun t hrecent hi => ?_⟩
  · rcases exec_writes hu with ⟨-, h0⟩ | ⟨t, rfl⟩ | ⟨t, -, hw⟩
    · exact h0
    · cases hu
      rw [giveResult_tx, wakeBurst_tx_replicate] at htx
      simp at htx
    · exact absurd htx hw.tx_ne
  · rcases exec_writes hu with ⟨-, h0⟩ | ⟨t, rfl⟩ | ⟨t, hclock, hw⟩
    · exact absurd h0 hbusy
    · cases hu
      exact ⟨t, [], rfl, by rw [giveResult_tx, wakeBurst_tx_replicate, List.append_nil]⟩
    · obtain ⟨rest, htx⟩ := hw.burst hbusy
      exact ⟨t, rest, hclock, htx⟩
  · rcases exec_writes hu with ⟨htx, -⟩ | ⟨t', rfl⟩ | ⟨t', hclock', hw⟩
    · exact absurd htx hne
    · exact absurd rfl (hbare t')
    · obtain rfl : t' = t := Option.some.inj (hclock'.symm.trans hclock)
      obtain ⟨before, b, htx⟩ := hw.last
      exact ⟨hw.send, hw.activity, b, by rw [htx]; simp⟩
  · subst hi
    cases hu
    exact ⟨rfl, rfl, rfl⟩
  · rcases hi with rfl | ⟨bytes, rfl⟩
    · exact schedBusy_of_recent hrecent
    · refine schedBusy_of_recent ?_
      rwa [drained_same s t bytes]

end Sys2Proof.Proofs

/-! The rows one by one: the parser's last rows (spec/40_parser.md), the completed frames, the outgoing frames
(spec/41_encoder.md), the link operations (spec/44_link_ops.md), and words written out (spec/30_encoding.md). -/

namespace Sys2Proof.Proofs

open Sys2Proof.Machine Sys2Proof.Safety

/-! ## The parser -/

section Parser

variable {s : State} {b : Byte}

/-- R112: a frame of four bytes has no effect but its event. -/
theorem frameDone_four (a0 a1 a2 a3 : Byte) (s : State) :
    frameDone [a0, a1, a2, a3] s = emit (.frameDone [a0, a1, a2, a3]) s := rfl

/-- R102: a frame whose LEN is not 2 awaits its payload. -/
theorem rxWmOk_of_ne (h : (rxAt s 1).toNat ≠ 2) : rxWmOk b s = setPState .awaitingPayload (rxStore 3 b s) := by
  refine checkComplete_of_ne ?_
  rw [rxAt_setPState, rxAt_rxStore_below s b (by omega)]
  change 4 ≠ _
  omega

/-- R102, R105: a frame whose LEN is 2 is complete. -/
theorem rxWmOk_of_eq (h : (rxAt s 1).toNat = 2) :
    rxWmOk b s = parserToReady (emit (.frameDone [rxAt s 0, rxAt s 1, rxAt s 2, b]) s) := by
  have hdone : (setPState .awaitingPayload (rxStore 3 b s)).rxidx =
      (rxAt (setPState .awaitingPayload (rxStore 3 b s)) 1).toNat + 2 := by
    rw [rxAt_setPState, rxAt_rxStore_below s b (by omega), h]
    rfl
  have hbytes : rxBytes (setPState .awaitingPayload (rxStore 3 b s)) 4 = [rxAt s 0, rxAt s 1, rxAt s 2, b] :=
    rxBytes_rxStore s b 3
  rw [rxWmOk, checkComplete_of_eq hdone, setPState_rxidx, rxStore_rxidx, hbytes, ← frameDone_four]
  exact parserToReady_frameDone_of_parser s _ _ _ _

theorem exec_rxbPayOvf (hs : s.pstate = .awaitingPayload) (hi : s.rxidx ≥ s.params.rxBufCap) :
    exec (.rxbPayOvf b) s = .next (raiseReject .overflow b s) :=
  congrArg _ (if_pos ⟨hs, hi⟩)

end Parser

/-- Settles O9: the row stores the byte and makes the completion test, which only LEN 2 passes. -/
theorem cmdSeenStoresWorkmode : Obligations.CmdSeenStoresWorkmode := by
  intro s b hs hb
  have hrow := exec_rxbCmdWmOk hs hb
  refine ⟨_, hrow, (execRxbCmdWmOk_eq s b).symm.trans hrow, fun hne => ?_, fun heq => ?_⟩
  · rw [rxWmOk_of_ne hne]
    exact ⟨rfl, rfl, rxAt_rxStore_same s b 3, fun _ hi => rxAt_rxStore_below s b hi, rfl⟩
  · rw [rxWmOk_of_eq heq, parserToReady_eq]
    rfl

/-- Settles O11: the row makes the local reset. -/
theorem fullBufferRejectsPayloadByte : Obligations.FullBufferRejectsPayloadByte := by
  intro s b hs hi
  exact ⟨by rw [exec_rxbPayOvf hs hi, raiseReject_eq], (execRxbPayOvf_eq s b).symm⟩

/-- R15, the AwaitingPayload facts. -/
theorem phase_awaitingPayload {s : State} (h : ParserInv s) (hs : s.pstate = .awaitingPayload) :
    4 ≤ s.rxidx ∧ s.rxidx < (rxAt s 1).toNat + 2 ∧ CmdStored s ∧ (rxAt s 3).toNat ≤ s.params.workmodeMax := by
  have hphase := h.phase
  simpa only [ParserPhase, hs] using hphase

/-- R103, R105: while bytes are awaited, one is stored or completes the frame. -/
theorem rxByte_awaitingPayload {s : State} (b : Byte) (hp : s.params.Legal) (h : ParserInv s)
    (hs : s.pstate = .awaitingPayload) :
    (s.rxidx + 1 ≠ (rxAt s 1).toNat + 2 → (rxByte b s).pstate = .awaitingPayload ∧ (rxByte b s).rxidx = s.rxidx + 1 ∧
      rxAt (rxByte b s) 1 = rxAt s 1) ∧
    (s.rxidx + 1 = (rxAt s 1).toNat + 2 → (rxByte b s).pstate = .ready ∧ (rxByte b s).rxidx = 0) := by
  obtain ⟨u, -, hu, hstored, hdone⟩ := payloadByteIsStoredAndCompletesFrame s b hp h hs
  cases hu
  obtain ⟨h4, -⟩ := phase_awaitingPayload h hs
  refine ⟨fun hne => ?_, fun heq => ?_⟩
  · obtain ⟨hps, hix, -, hbelow, -⟩ := hstored hne
    exact ⟨hps, hix, hbelow 1 (by omega)⟩
  · obtain ⟨_, _, -, -, hready⟩ := hdone heq
    rw [hready]
    exact ⟨rfl, rfl⟩

/-- 40_parser section 8: the awaited bytes, whatever they are, end in Ready. -/
theorem rxBytesIn_awaited {s : State} {bytes : List Byte} (hp : s.params.Legal) (h : ParserInv s)
    (hs : s.pstate = .awaitingPayload) (hlen : bytes.length = (rxAt s 1).toNat + 2 - s.rxidx) :
    (rxBytesIn bytes s).pstate = .ready ∧ (rxBytesIn bytes s).rxidx = 0 := by
  obtain ⟨-, hlt, -⟩ := phase_awaitingPayload h hs
  induction bytes generalizing s with
  | nil => rw [List.length_nil] at hlen; omega
  | cons b bs ih =>
    rw [List.length_cons] at hlen
    obtain ⟨hstored, hdone⟩ := rxByte_awaitingPayload b hp h hs
    by_cases hlast : s.rxidx + 1 = (rxAt s 1).toNat + 2
    · obtain rfl : bs = [] := List.length_eq_zero_iff.1 (by omega)
      exact hdone hlast
    · obtain ⟨hps, hix, hat⟩ := hstored hlast
      exact ih ((rxByte_same s b).params_eq ▸ hp) (rxByte_parserInv s b hp h) hps (by rw [hat, hix]; omega)
        (by rw [hat, hix]; omega)

/-- Settles O15: the bound is that of a legal LEN with four bytes stored. -/
theorem payloadCountEndsInReady : Obligations.PayloadCountEndsInReady := by
  intro s bytes hp h hs hlen
  obtain ⟨h4, -, ⟨⟨-, hlegal⟩, -⟩, -⟩ := phase_awaitingPayload h hs
  have hmax := (frameLenLegal_iff _ _).1 hlegal
  exact ⟨by omega, _, execAll_rxbyte s bytes, rxBytesIn_awaited hp h hs hlen⟩

/-! ## Completed frames -/

/-- Settles O16: the row's frame is a status frame of CMD 0 for the active mode. -/
theorem connectivityFrameSetsConnected : Obligations.ConnectivityFrameSetsConnected :=
  fun _ d => congrArg _ (frameDone_connectivity d)

/-- Settles O18: the row's frame is a status frame for the active mode. -/
theorem otherCommandFrameIsIgnored : Obligations.OtherCommandFrameIsIgnored := by
  intro s c d h0 h1
  refine congrArg _ ((frameDone_ignored d h0 h1).trans ?_)
  simp [raiseDrop, emit]

/-- Settles O19: each of the rows completes a status frame, which the filter discards. -/
theorem staleStatusFrameHasNoEffect : Obligations.StaleStatusFrameHasNoEffect := by
  intro s c w d hw
  refine ⟨fun i hi => ?_, congrArg _ (frameDone_stale d hw), congrArg _ (frameDone_stale d hw)⟩
  simp only [List.mem_cons, List.not_mem_nil, or_false] at hi
  rcases hi with rfl | rfl <;> exact congrArg _ (frameDone_stale d hw)

/-- R112: a frame without exactly one byte of payload has no effect but its event. -/
theorem frameDone_generic {payload : List Byte} (h : payload.length ≠ 1) (a0 a1 a2 a3 : Byte) (s : State) :
    frameDone (a0 :: a1 :: a2 :: a3 :: payload) s = emit (.frameDone (a0 :: a1 :: a2 :: a3 :: payload)) s := by
  match payload, h with
  | [], _ => rfl
  | [_], h => exact absurd rfl h
  | _ :: _ :: _, _ => rfl

/-- Settles O20: the row completes a frame without exactly one byte of payload. -/
theorem genericFrameHasNoEffect : Obligations.GenericFrameHasNoEffect :=
  fun s _ _ _ h => congrArg _ (frameDone_generic h _ _ _ _ s)

/-! ## Outgoing frames -/

/-- Settles O23: the three rows answer with the raw report frame of their payload. -/
theorem rawReportFrameBytes : Obligations.RawReportFrameBytes := by
  intro s payload _ _ i hi
  simp only [List.mem_cons, List.not_mem_nil, or_false] at hi
  rcases hi with rfl | rfl | rfl <;> rfl

/-- For a mode that names a profile, `ENC.START` answers with the start frame and touches the results alone. -/
theorem exec_encStart_of_profile {m : Byte} {mode : Mode} (h : profileOf m = some mode) (s : State) :
    exec (.encStart m) s = .next { s with results := s.results ++ [.frame (encodeStart s.params m)] } := by
  change execEncStart m s = _
  rw [execEncStart, h]
  rfl

/-- Settles O24: a mode 1 to 4 names a profile. -/
theorem startFrameBytes : Obligations.StartFrameBytes := by
  intro s m hlo hhi
  obtain ⟨_, hm⟩ := Option.isSome_iff_exists.1 ((profileOf_isSome m).2 ⟨hlo, hhi⟩)
  exact exec_encStart_of_profile hm s

/-- A frame begins with SYNC, and its second byte counts what follows it (41_encoder R120). -/
def CountsItself (f : List Byte) : Prop := f.head? = some 0x55 ∧ f.length = (f.getD 1 0).toNat + 2

theorem countsItself_encodeKbd {payload : List Byte} (h : payload.length = kbdPayloadLen) :
    CountsItself (encodeKbd payload) := by
  rw [encodeKbd_of_length h]
  exact ⟨rfl, by simp [h]⟩

theorem countsItself_encodeRaw {p : Params} {payload : List Byte} (hp : p.Legal) (h : rawPayloadOk p payload = true) :
    CountsItself (encodeRaw payload) :=
  ⟨rfl, congrArg (· + 2) (rawPayload_count hp h).symm⟩

theorem countsItself_encodeStart {p : Params} (hp : p.Legal) (m : Byte) : CountsItself (encodeStart p m) :=
  ⟨rfl, by simp [encodeStart, hp.deviceName_length]⟩

section Results

variable {s u : State}

theorem results_sched (s : State) (t : Nat) : (sched t s).results = s.results := by rw [sched_same s t]

theorem results_received (h : SameButReceive s u) : u.results = s.results := by rw [h]

theorem results_start (s : State) (m : Byte) (t : Nat) : (start m t s).results = s.results := by
  rcases start_cases s t m with h | ⟨mode, -, -, h⟩ <;> rw [h]
  rw [startProfile_eq]

theorem results_pair (s : State) (m : Byte) (t : Nat) : (pair m t s).results = s.results := by
  rcases pair_cases s t m with h | ⟨mode, -, h⟩ <;> rw [h]
  rw [pairProfile_eq]

theorem results_stop (s : State) (t : Nat) : (stop t s).results = s.results := by
  rcases stop_cases s t with h | ⟨-, h⟩ <;> rw [h]
  rw [stopLink_eq]

theorem results_submit (ty : ReportType) (payload : List Byte) (s : State) :
    (submit ty payload s).results = s.results := by
  rcases submit_cases s ty payload with ⟨c, h⟩ | ⟨-, -, -, h⟩ <;> rw [h] <;> rfl

theorem results_popReport (s : State) : (popReport s).2.results = s.results := by
  unfold popReport
  split <;> rfl

/-- R63: a frame row completes its frame. -/
theorem exec_frameRow {i : Instr} (h : i.format = .rxframe) (s : State) : ∃ f, exec i s = .next (frameDone f s) := by
  cases i <;> cases h <;> exact ⟨_, rfl⟩

variable {f : List Byte}

theorem not_answered_frame (h : u.results = s.results) : u.results ≠ s.results ++ [.frame f] := by
  simp [h]

/-- No operation answers with a frame (30_encoding R77, column "result"). -/
theorem op_not_answered_frame {i : Instr} (hf : i.format = .op) (hu : exec i s = .next u) :
    u.results ≠ s.results ++ [.frame f] := by
  cases i with
  | rxbyte b => cases hu; exact not_answered_frame (results_received (rxByte_same s b))
  | push ty payload => cases hu; simp [results_pushReport]
  | pop => cases hu; simp [results_popReport]
  | qclear => cases hu; exact not_answered_frame rfl
  | qdepth => cases hu; simp
  | sched t => cases hu; exact not_answered_frame (results_sched s t)
  | tick t bytes =>
    cases hu
    exact not_answered_frame ((results_sched _ t).trans (results_received (drained_same s t bytes)))
  | pairtmo t => cases hu; exact not_answered_frame (results_received (pairTimeout_same s t))
  | start m t => cases hu; exact not_answered_frame (results_start s m t)
  | pair m t => cases hu; exact not_answered_frame (results_pair s m t)
  | stop t => cases hu; exact not_answered_frame (results_stop s t)
  | isconn => cases hu; simp
  | submitKbd payload => cases hu; exact not_answered_frame (results_submit _ payload s)
  | submitMouse payload => cases hu; exact not_answered_frame (results_submit _ payload s)
  | submitExtra payload => cases hu; exact not_answered_frame (results_submit _ payload s)
  | submitNkro payload => cases hu; exact not_answered_frame (results_submit _ payload s)
  | ledq => cases hu; simp
  | reservedE => cases hu; exact not_answered_frame rfl
  | reservedF => cases hu; exact not_answered_frame rfl
  | _ => cases hf

/-- The frame an answer gained is the one that was given. -/
theorem countsItself_of_answer {rs : List Result} {g : List Byte} (h : rs ++ [.frame g] = rs ++ [.frame f])
    (hg : CountsItself g) : CountsItself f := by
  have hgf : g = f := by simpa using h
  rwa [← hgf]

/-- R120: the frame an encoder row answers with counts itself. -/
theorem txframe_countsItself {i : Instr} (hf : i.format = .txframe) (hp : s.params.Legal)
    (hwf : i.wf s.params = true) (hu : exec i s = .next u) (hr : u.results = s.results ++ [.frame f]) :
    CountsItself f := by
  cases i with
  | encKbd payload => cases hu; exact countsItself_of_answer hr (countsItself_encodeKbd (of_decide_eq_true hwf))
  | encMouse payload => cases hu; exact countsItself_of_answer hr (countsItself_encodeRaw hp hwf)
  | encExtra payload => cases hu; exact countsItself_of_answer hr (countsItself_encodeRaw hp hwf)
  | encNkro payload => cases hu; exact countsItself_of_answer hr (countsItself_encodeRaw hp hwf)
  | encStart m =>
    obtain ⟨_, hm⟩ := Option.isSome_iff_exists.1 hwf
    cases (exec_encStart_of_profile hm s).symm.trans hu
    exact countsItself_of_answer hr (countsItself_encodeStart hp m)
  | encPair m =>
    obtain ⟨_, hm⟩ := Option.isSome_iff_exists.1 hwf
    cases (exec_encPair_of_profile hm s).symm.trans hu
    exact countsItself_of_answer hr ⟨rfl, rfl⟩
  | encStop => cases hu; exact countsItself_of_answer hr ⟨rfl, rfl⟩
  | wakeBurst t => cases hu; simp at hr
  | _ => cases hf

end Results

/-- Settles O26: by the four formats; only an encoder row answers with a frame. -/
theorem everyOutgoingFrameCountsItself : Obligations.EveryOutgoingFrameCountsItself := by
  intro s u i f hp hwf hu hr
  cases hf : i.format with
  | rxbyte =>
    obtain ⟨b, henc⟩ := encode_byteRow s.params hf
    cases (exec_byteRow henc s).symm.trans hu
    exact absurd hr (not_answered_frame (results_received (rxByte_same s b)))
  | rxframe =>
    obtain ⟨g, hg⟩ := exec_frameRow hf s
    cases hg.symm.trans hu
    exact absurd hr (not_answered_frame (results_received (frameDone_same s g)))
  | txframe => exact txframe_countsItself hf hp hwf hu hr
  | op => exact absurd hr (op_not_answered_frame hf hu)

/-! ## Link operations -/

section Link

variable {s : State} {m : Byte} {mode : Mode}

/-- R183: the row is the link controller's function. -/
theorem exec_pair (m : Byte) (t : Nat) (s : State) : exec (.pair m t) s = .next (pair m t s) := rfl

/-- R177: what names no profile is refused, by the operations and by the encoder rows alike. -/
theorem exec_of_no_profile (h : profileOf m = none) (t : Nat) (s : State) :
    exec (.start m t) s = .next s ∧ exec (.pair m t) s = .next s ∧ exec (.encStart m) s = .next s ∧
      exec (.encPair m) s = .next s := by
  refine ⟨?_, ?_, ?_, ?_⟩
  · rw [exec_start, start_of_no_profile h]
  · rw [exec_pair, pair, h]
  · change execEncStart m s = _
    rw [execEncStart, h]
  · change execEncPair m s = _
    rw [execEncPair, h]

/-- R179: a profile other than the active one is started. -/
theorem exec_start_of_profile (husb : mode ≠ .usb) (hne : mode ≠ s.activeMode) (t : Nat) :
    exec (.start mode.code t) s = .next (startProfile mode t s) := by
  rw [exec_start, start, profileOf_code mode husb]
  exact congrArg _ (if_neg hne)

/-- R183: any profile is paired. -/
theorem exec_pair_of_profile (husb : mode ≠ .usb) (t : Nat) (s : State) :
    exec (.pair mode.code t) s = .next (pairProfile mode t s) := by
  rw [exec_pair, pair, profileOf_code mode husb]

/-- R187: in USB mode a STOP does nothing. -/
theorem exec_stop_of_usb (h : s.activeMode = .usb) (t : Nat) : exec (.stop t) s = .next s := congrArg _ (if_pos h)

/-- R188: in any other mode it acts. -/
theorem exec_stop_of_wireless (h : s.activeMode ≠ .usb) (t : Nat) : exec (.stop t) s = .next (stopLink t s) :=
  congrArg _ (if_neg h)

end Link

/-- Settles O42: a mode outside 1 to 4 names no profile; the reserved selectors have no effect. -/
theorem refusedCallsChangeNothing : Obligations.RefusedCallsChangeNothing := by
  refine ⟨fun s m t hm i hi => ?_, fun s => ⟨rfl, rfl⟩⟩
  obtain ⟨hstart, hpair, hencStart, hencPair⟩ := exec_of_no_profile ((profileOf_eq_none m).2 hm) t s
  simp only [List.mem_cons, List.not_mem_nil, or_false] at hi
  rcases hi with rfl | rfl | rfl | rfl
  · exact hstart
  · exact hpair
  · exact hencStart
  · exact hencPair

/-- Settles O43: the guard lets another profile pass to the acting arm. -/
theorem startInstallsSessionAndSendsFrameTwice : Obligations.StartInstallsSessionAndSendsFrameTwice := by
  intro s mode t husb hne
  exact ⟨_, _, _, rfl, rfl, rfl, by rw [exec_start_of_profile husb hne, startProfile_eq]; rfl⟩

/-- Settles O44: there is no guard before the acting arm. -/
theorem pairOpensWindowAndSendsFrameTwice : Obligations.PairOpensWindowAndSendsFrameTwice := by
  intro s mode t husb
  exact ⟨_, _, rfl, rfl, by rw [exec_pair_of_profile husb, pairProfile_eq]; rfl⟩

/-- Settles O45: USB mode, and the acting arm in any other. -/
theorem stopDisconnectsAndClears : Obligations.StopDisconnectsAndClears := by
  refine fun s t => ⟨fun husb => exec_stop_of_usb husb t, fun husb => ⟨_, rfl, ?_⟩⟩
  rw [exec_stop_of_wireless husb, stopLink_eq]
  rfl

/-! ## Reads, and words written out -/

/-- Settles O47: each row appends one result, the register's value, and touches no other field. -/
theorem qdepthAndLedqAreReads : Obligations.QdepthAndLedqAreReads := fun _ => ⟨rfl, rfl⟩

/-- R77: a word whose payload line has as many bytes as its `len` line says. -/
theorem withPayload_of_counted {a : Args} (h : a.data.length = a.len.toNat) (mk : List Byte → Instr) :
    withPayload a mk = .ok (mk a.data) := if_pos h

/-- Settles O51: the words are read by the selector and the fixed bytes; only SUBMIT's reading has a condition, on its
payload line. -/
theorem writtenOutWordsDecode : Obligations.WrittenOutWordsDecode :=
  ⟨fun _ _ => ⟨rfl, rfl, rfl, fun h => withPayload_of_counted h .submitMouse⟩, rfl, rfl, rfl, rfl, rfl⟩

end Sys2Proof.Proofs
